-- ==== Sys2Proof/Word.lean ====
section
/-! DEFINITION. The two word types of HUFFCORE: a byte (a Symbol, spec R5) and a 32-bit register or bus word
(spec R6 `W_REG`). -/

namespace Sys2Proof

/-- A Symbol, one byte (R5 `SYM_BITS` = 8). -/
abbrev Byte := BitVec 8

/-- A host register, a host transaction's data, a frequency, a bit-length (R6: 32 bits each). -/
abbrev Word := BitVec 32

end Sys2Proof
end

