-- ==== Sys2Proof/Syntax.lean ====
section
/-! DEFINITION. The instruction set of HUFFCORE: the twelve host commands of R62, one constructor per row of
spec/opcode_table.json. A command has no operand fields (R60, R61): every operand is in a register or a memory that the
command's rule names. -/

namespace Sys2Proof

/-- The twelve commands (R62). -/
inductive Instr where
  /-- NOP, 0x00000000 (R94). -/
  | nop
  /-- COUNT, 0x00000001: the frequency counter (R110, R111). -/
  | count
  /-- BUILD, 0x00000002: the tree builder (R120). -/
  | build
  /-- WALK, 0x00000003: the code-table generator (R141). -/
  | walk
  /-- PACK, 0x00000004: the bit packer (R151). -/
  | pack
  /-- FRAME, 0x00000005: the framer (R181). -/
  | frame
  /-- PARSE, 0x00000006: the deframer (R186, R188). -/
  | parse
  /-- UNPACK, 0x00000007: the bit unpacker (R167). -/
  | unpack
  /-- COMPRESS, 0x00000008: COUNT; BUILD; WALK; PACK; FRAME (R100). -/
  | compress
  /-- DECOMPRESS, 0x00000009: PARSE; BUILD; WALK; UNPACK (R101). -/
  | decompress
  /-- CLRST, 0x0000000A: clear status, the return from the error state (R96, R209). -/
  | clrst
  /-- SRST, 0x0000000F: soft reset (R97). -/
  | srst
deriving DecidableEq, Repr

end Sys2Proof
end

