-- ==== Sys2Proof/WellFormed.lean ====
section
/-! DEFINITION. What is well-formed: a command (no operand, so always), a command word (R60, R62, R63) and a host
transaction (R41). -/

namespace Sys2Proof

/-- Commands have no immediates, register numbers or addressing modes (R61), so no command can be ill-formed. -/
def Instr.wf : Instr → Bool := fun _ => true

/-- A command word's reserved field `rsv`, bits 31:4, is 0 (R60). -/
def reservedBitsZero (w : Word) : Bool := w.extractLsb' 4 28 == 0#28

/-- The opcode field, bits 3:0, is not one of the reserved 0xB..0xE (R62). -/
def opcodeAssigned (w : Word) : Bool :=
  let op := w.extractLsb' 0 4
  op.toNat ≤ 0xA || op.toNat == 0xF

/-- A word that is one of the twelve commands (R63 calls every other word illegal). -/
def commandWordWf (w : Word) : Bool := reservedBitsZero w && opcodeAssigned w

/-- A host transaction inside the interface: 32 bits wide, at an offset that is a multiple of 4 in 0x00..0xFC (R41). -/
def transactionWf (width off : Nat) : Bool := width == 32 && off % 4 == 0 && off ≤ 0xFC

end Sys2Proof
end

