-- ==== Sys2Proof/Decode.lean ====
section
/-! DEFINITION. The CMD decoder (R60, R62, R63), total on every 32-bit word and rejecting by name, and the encoder
written from the same table. -/

namespace Sys2Proof

/-- Why a word is no command (R63). -/
inductive Reject where
  /-- `rsv`, bits 31:4, is not 0. -/
  | reservedBits
  /-- The opcode is one of 0xB, 0xC, 0xD, 0xE. -/
  | reservedOpcode
deriving DecidableEq, Repr

/-- What the decoder answers. -/
inductive Decoded where
  | instr (i : Instr)
  | rejected (r : Reject)
deriving DecidableEq, Repr

/-- The opcode map of R62. -/
def opcodeMap (op : BitVec 4) : Option Instr :=
  match op.toNat with
  | 0x0 => some .nop
  | 0x1 => some .count
  | 0x2 => some .build
  | 0x3 => some .walk
  | 0x4 => some .pack
  | 0x5 => some .frame
  | 0x6 => some .parse
  | 0x7 => some .unpack
  | 0x8 => some .compress
  | 0x9 => some .decompress
  | 0xA => some .clrst
  | 0xF => some .srst
  | _ => none

/-- A decoder tells a command by `op` alone after checking `rsv` = 0 (R60). -/
def decode (w : Word) : Decoded :=
  if reservedBitsZero w then
    match opcodeMap (w.extractLsb' 0 4) with
    | some i => .instr i
    | none => .rejected .reservedOpcode
  else .rejected .reservedBits

/-- The command's word (R62, column "word"). -/
def encode : Instr → Word
  | .nop => 0x00000000#32
  | .count => 0x00000001#32
  | .build => 0x00000002#32
  | .walk => 0x00000003#32
  | .pack => 0x00000004#32
  | .frame => 0x00000005#32
  | .parse => 0x00000006#32
  | .unpack => 0x00000007#32
  | .compress => 0x00000008#32
  | .decompress => 0x00000009#32
  | .clrst => 0x0000000A#32
  | .srst => 0x0000000F#32

/-- The command word an opcode-table row's bits stand for: one 32-bit word, bit 0 its least significant bit (R60), every
bit above the `nbits` given bits 0. -/
def tableWord (nbits w : Nat) : Nat := w % 2 ^ nbits

/-- The instruction the decoder reads from a row's bits; a row of more than 32 bits is no command (R60: one length). -/
def decodeTableWord (nbits w : Nat) : Option Instr :=
  if tableWord nbits w < 2 ^ 32 then
    match decode (BitVec.ofNat 32 (tableWord nbits w)) with
    | .instr i => some i
    | .rejected _ => none
  else none

end Sys2Proof
end

