-- ==== Sys2Proof/Config.lean ====
section
/-! DEFINITION. What is fixed for one HUFFCORE (R5, R6: the parameter `N_MAX` and the constants), and the free values:
opaque constants without a body, each applied to a plain counter of State, for everything the spec leaves unspecified
(93_implementation_defined U1..U9). -/

namespace Sys2Proof

/-- The one parameter a model takes: `N_MAX`, the largest raw byte sequence the core compresses or emits,
1 ≤ N_MAX ≤ 2^24 (R6, decision D2). -/
structure Config where
  nMax : Nat
  nMax_pos : 1 ≤ nMax
  nMax_le : nMax ≤ 2 ^ 24
deriving DecidableEq, Repr

namespace Config

/-- The default `N_MAX` = 65536 (R6). -/
def default : Config := ⟨65536, by decide, by decide⟩

/-- `HDR_MAX` = 2 + 5·256 + 4, the largest container header (R6, R70). -/
def hdrMax : Nat := 1286

/-- `BUF_BYTES` = N_MAX + 1286, the capacity of each of SRC, DST and PAY (R6). -/
def bufBytes (c : Config) : Nat := c.nMax + hdrMax

/-- The identification word `ID`, "HUF1" (R2, R21). -/
def idWord : Word := 0x48554631#32

end Config

/-- The three byte memories (R40). -/
inductive ByteMem where
  | src
  | dst
  | pay
deriving DecidableEq, Repr

/-- FREE VALUE. A byte of SRC, DST or PAY that nothing has written since reset number `era` (U1, U2, U3; R231): the value
the cell holds, the same until it is written or the block is reset. DESIGN CHOICE of form, log 5. -/
opaque Config.powerOnByte (era : Nat) (m : ByteMem) (index : Nat) : Byte

/-- FREE VALUE. What a host read of DST returns at an index ≥ DST_LEN after command number `era` (U2, R12, R27); log 6. -/
opaque Config.staleByte (era : Nat) (index : Nat) : Byte

/-- FREE VALUE. What TBL_DATA returns for an unspecified entry after command number `era` (U9, R28): table `sel`,
index `idx`; log 6. -/
opaque Config.staleTableWord (era : Nat) (sel idx : Nat) : Word

/-- FREE VALUE. What a host read other than STATUS and ID returns while BUSY = 1 (U7, R236), in the window of command
number `era` with `left` further transactions to come; log 4. -/
opaque Config.busyReadWord (era left : Nat) : Word

/-- FREE VALUE. How many host transactions fall inside the BUSY window of command number `era`: a finite natural number,
it may be 0 (U8, R240, R31); log 3. -/
opaque Config.busyWindow (era : Nat) : Nat

/-- FREE VALUE. How many phases the running command moves on before a host transaction inside its BUSY window
(R22, R240: no timing is architectural); log 3. -/
opaque Config.phaseAdvance (era left : Nat) : Nat

end Sys2Proof
end

