-- ==== Sys2Proof/Machine/State.lean ====
section
/-! DEFINITION. The state of HUFFCORE (10_state R10..R31), what a step can stop with, and the state after reset (R231).
Every field is plain data. -/

namespace Sys2Proof.Machine

/-- A byte memory: the bytes written since reset, (index, byte) with the index strictly rising. An index that is not
listed has NO VALUE here; reading it gives the free value `Config.powerOnByte` (R11..R13, R231; log 5). -/
abbrev Memory := List Host.Cell

/-- The sequencer's phase, STATUS[11:8] (R22); the values 8..15 are never taken. -/
inductive Phase where
  | idle
  | count
  | build
  | walk
  | pack
  | frame
  | parse
  | unpack
deriving DecidableEq, Repr

/-- The error codes of STATUS.ERR (R200); the codes 6..15 are never set. -/
inductive ErrCode where
  | noError
  | corruptContainer
  | malformedTable
  | configuration
  | capacity
  | illegalCommand
deriving DecidableEq, Repr

/-- The STATUS register's fields (R23); the reserved bits 3:2 and 31:16 read 0. -/
structure Status where
  busy : Bool
  done : Bool
  err : ErrCode
  phase : Phase
  ephase : Phase
deriving DecidableEq, Repr

/-- STATUS after reset: 0x00000000 (R231). -/
def Status.zero : Status := ⟨false, false, .noError, .idle, .idle⟩

/-- One entry of NODE (R15), a tagged variant: a leaf carries its symbol (`low` and `high` are written 0), an internal
node its children (`sym` is written 0). -/
inductive Node where
  | leaf (sym : Byte) (freq : Word)
  | internal (freq : Word) (low high : BitVec 9)
deriving DecidableEq, Repr, Inhabited

/-- A valid entry of CODE (R18, R78): the code is the `len` low bits of `val`, most significant first. -/
structure Code where
  len : BitVec 8
  val : BitVec 255
deriving DecidableEq, Repr

/-- An entry of the walker's stack WSTK (R30). -/
structure WalkEntry where
  node : BitVec 9
  len : BitVec 8
  val : BitVec 255
deriving DecidableEq, Repr

/-- The hidden datapath registers (R30): each unit initialises its own, and between commands they hold any value (U6;
`releaseHidden`). `wstk` holds the live entries of WSTK, top first, and WSP is its length; the entries above WSP are
unspecified and never read (log 9). -/
structure Hidden where
  acc : Byte
  accCnt : BitVec 4
  pkI : Word
  pkP : Word
  cur : BitVec 9
  upJ : Word
  upO : Word
  wstk : List WalkEntry
  cntIdx : Word
  frmIdx : Word
  prsIdx : Word
deriving DecidableEq, Repr, Inhabited

/-- The hidden registers after reset: all 0, WSP = 0 (R231). -/
def Hidden.zero : Hidden := ⟨0, 0, 0, 0, 0, 0, 0, [], 0, 0, 0⟩

/-- WSP (R30). -/
def Hidden.wsp (h : Hidden) : Nat := h.wstk.length

/-- MODEL. A working command between its acceptance and the moment the host can see it complete: `left` more host
transactions fall inside the BUSY window (a free number), `phases` are the phases it still has to show, and `final`,
`info` are STATUS and ERR_INFO as it leaves them (R7, R92, R93, R205, R240; log 1, log 3). -/
structure Flight where
  left : Nat
  phases : List Phase
  final : Status
  info : Word
deriving DecidableEq, Repr

/-- What the host, or the platform, does next (R41, R81, R230, R232). -/
inductive HostOp where
  /-- `HostRead(off)`, a 32-bit read (R41). -/
  | read (off : Nat)
  /-- `HostWrite(off, data)`, a 32-bit write (R41). -/
  | write (off : Nat) (data : Word)
  /-- A transaction of a width other than 32 bits: outside the interface (R41). -/
  | irregular (width off : Nat)
  /-- `WAIT`: read STATUS until its bit 0 is 0 (R81). -/
  | wait
  /-- Wait for the `irq` pin to be 1 (R232 step 4, R212). -/
  | waitIrq
  /-- The platform asserts the reset input (R230). -/
  | hardReset
deriving DecidableEq, Repr

/-- The state of the machine: the spec's own state (R10), the parameter `cfg` (R6, R31), and the model's own fields from
`flight` on. -/
structure State where
  /-- The parameter N_MAX; no step changes it (log 10). -/
  cfg : Config
  /-- SRC (R11). -/
  src : Memory
  /-- DST (R12). -/
  dst : Memory
  /-- PAY (R13). -/
  pay : Memory
  /-- FREQ[0..255] (R14). -/
  freq : Vector Word 256
  /-- NODE: the valid entries NODE[0..NODE_CNT) (R15); an entry past them is unspecified (log 7). -/
  node : List Node
  /-- INQ (R17): the indices i with INQ[i] = 1, ascending (log 12). -/
  inq : List Nat
  /-- CODE[0..255] (R18): `none` is valid = 0, whose `len` and `val` are unspecified (log 8). -/
  code : Vector (Option Code) 256
  /-- SRC_LEN (R20). -/
  srcLen : Word
  /-- DST_LEN (R20). -/
  dstLen : Word
  /-- BITLEN (R20). -/
  bitLen : Word
  /-- NODE_CNT (R20). -/
  nodeCnt : BitVec 9
  /-- SRC_PTR (R26). -/
  srcPtr : Word
  /-- DST_PTR (R27). -/
  dstPtr : Word
  /-- TBL_SEL (R28). -/
  tblSel : BitVec 2
  /-- TBL_IDX (R28). -/
  tblIdx : Word
  /-- STATUS (R23). -/
  status : Status
  /-- ERR_INFO (R24). -/
  errInfo : Word
  /-- INT_EN bits 1:0, IE_ERR and IE_DONE (R25); bits 31:2 read 0. -/
  intEn : BitVec 2
  /-- The hidden datapath registers (R30). -/
  hidden : Hidden
  /-- MODEL. The command in its BUSY window, if any (log 1). -/
  flight : Option Flight
  /-- MODEL. The host has not yet read STATUS with BUSY = 0 since the last working command was accepted (R236; log 4). -/
  unseen : Bool
  /-- MODEL. The host's pending transactions, oldest first (log 2). -/
  host : List HostOp
  /-- MODEL. The values host reads returned, newest first (log 2). -/
  replies : List Word
  /-- MODEL. How many resets there have been: the counter behind `Config.powerOnByte` (log 14). -/
  resetEra : Nat
  /-- MODEL. How many working commands and resets there have been: the counter behind the other free values (log 14). -/
  cmdEra : Nat
deriving DecidableEq, Repr

/-- Why the machine stops. The spec's own errors never stop it: they are latched in STATUS (R205). -/
inductive Fault where
  /-- Raised by WALK (alone or in a macro command) when NODE is not a tree and the walk does not end. R141: "NODE is
  always a well-formed tree", so no run reaches it; safe (log 11). -/
  | walkRunaway
deriving DecidableEq, Repr

/-- What the model gives no meaning to. -/
inductive Refusal where
  /-- An instruction without a meaning yet; raised by no arm of `exec` in this model. Safe. -/
  | notModelled (mnemonic : String)
  /-- Raised by a host transaction that is not an aligned 32-bit access at 0x00..0xFC: "outside the interface: the
  hardware gives it no meaning and a model refuses it" (R41, I1). Safe. -/
  | outsideInterface (width off : Nat)
  /-- Raised by a host read or write made before the host has seen BUSY = 0, other than a read of STATUS or ID and a write
  of SRST: "A model should treat such an access as a refusal" (R236, U7). Safe (log 4). -/
  | busyAccess (off : Nat)
deriving DecidableEq, Repr

end Sys2Proof.Machine

namespace Sys2Proof

/-- FREE VALUE. What entry `index` of NODE holds when it is not a valid entry, after command number `era` (U4, R15;
log 7). -/
opaque Config.freeNode (era : Nat) (index : Nat) : Machine.Node

/-- FREE VALUE. What the hidden datapath registers hold once command number `era` has ended (U6, R30; log 9). -/
opaque Config.freeHidden (era : Nat) : Machine.Hidden

end Sys2Proof

namespace Sys2Proof.Machine

/-- How one unit ends (R93, R205). -/
inductive UnitResult where
  /-- Without an error. -/
  | done (s : State)
  /-- With `raise e(info)`, after the unit's own failure-path writes. -/
  | raised (e : ErrCode) (info : Word) (s : State)
  /-- It never ends. -/
  | stuck (f : Fault)
deriving Repr

/-- Reset (R231): every value the rule gives; the bytes of SRC, DST and PAY and the entries of NODE are unspecified, so
none is held; the queue of the host is empty. -/
def State.resetOf (c : Config) : State where
  cfg := c
  src := []
  dst := []
  pay := []
  freq := Vector.replicate 256 0
  node := []
  inq := []
  code := Vector.replicate 256 none
  srcLen := 0
  dstLen := 0
  bitLen := 0
  nodeCnt := 0
  srcPtr := 0
  dstPtr := 0
  tblSel := 0
  tblIdx := 0
  status := Status.zero
  errInfo := 0
  intEn := 0
  hidden := Hidden.zero
  flight := none
  unseen := false
  host := []
  replies := []
  resetEra := 0
  cmdEra := 0

/-- The machine right after reset, with the default N_MAX = 65536 (R6, R231). -/
def State.reset : State := State.resetOf Config.default

end Sys2Proof.Machine
end

