-- ==== Sys2Proof/Machine/Operands.lean ====
section
/-! DEFINITION. What the commands read and how: the byte memories, MemRead and MemWrite (R8, R44), the tables, the view K
(R21), the stream bits of the payload (R43, R74) and the bits of a code (R8, R78). A command has no operand fields (R61):
these are all the operand forms there are. -/

namespace Sys2Proof.Machine

/-! ## Byte memories -/

/-- The byte at index `a`, if one has been written since reset. An index that is not listed has no value (log 5). -/
def Memory.lookup : Memory → Nat → Option Byte
  | [], _ => none
  | (b, v) :: rest, a => if a = b then some v else Memory.lookup rest a

/-- `M[a] <- v`, keeping the indices strictly rising. -/
def Memory.store : Memory → Nat → Byte → Memory
  | [], a, v => [(a, v)]
  | (b, w) :: rest, a, v =>
    if a < b then (a, v) :: (b, w) :: rest
    else if a = b then (a, v) :: rest
    else (b, w) :: Memory.store rest a v

/-- `M[a + j] <- v_j` for j = 0, 1, … in ascending order. -/
def Memory.storeList : Memory → Nat → List Byte → Memory
  | m, _, [] => m
  | m, a, v :: vs => Memory.storeList (Memory.store m a v) (a + 1) vs

/-- The canonical form: the indices are strictly rising. (No byte equals what an unlisted index reads as, since that is
no value.) -/
def Memory.wf : Memory → Bool
  | [] => true
  | [_] => true
  | (a, _) :: (b, w) :: rest => decide (a < b) && Memory.wf ((b, w) :: rest)

/-- `SRC[i]`: the byte written, or the free value of a byte the host never wrote since reset (R11, U1). -/
def State.srcByte (s : State) (i : Nat) : Byte :=
  (Memory.lookup s.src i).getD (Config.powerOnByte s.resetEra .src i)

/-- `DST[i]` as a unit stored it (R12). What the HOST reads is `State.dstRead`. -/
def State.dstByte (s : State) (i : Nat) : Byte :=
  (Memory.lookup s.dst i).getD (Config.powerOnByte s.resetEra .dst i)

/-- `PAY[i]` (R13). -/
def State.payByte (s : State) (i : Nat) : Byte :=
  (Memory.lookup s.pay i).getD (Config.powerOnByte s.resetEra .pay i)

/-- The capacity of each byte memory, `BUF_BYTES` (R6). -/
def State.bufBytes (s : State) : Nat := s.cfg.bufBytes

/-- `ceil8(b) = (b + 7) div 8`, without wrap-around (R8). -/
def ceil8 (b : Nat) : Nat := (b + 7) / 8

/-- The unsigned integer whose bytes are given most significant first (R8 `MemRead`, R44). -/
def beNat (bs : List Byte) : Nat := bs.foldl (fun n b => n * 256 + b.toNat) 0

/-- The `n` bytes of `v`, most significant first (R8 `MemWrite`, R44). -/
def beBytes (n v : Nat) : List Byte := (List.range n).map fun j => BitVec.ofNat 8 (v / 256 ^ (n - 1 - j))

/-- `SRC[a], SRC[a+1], …, SRC[a+n−1]`. -/
def State.srcSlice (s : State) (a n : Nat) : List Byte := (List.range n).map fun j => s.srcByte (a + j)

/-- `MemRead(SRC, a, n)` (R8). -/
def State.srcRead (s : State) (a n : Nat) : Nat := beNat (s.srcSlice a n)

/-- `SRC[0..SRC_LEN)`, the valid part of SRC (R11). -/
def State.srcBytes (s : State) : List Byte := s.srcSlice 0 s.srcLen.toNat

/-- `PAY[0..ceil8(BITLEN))`, the valid part of PAY (R13). -/
def State.payBytes (s : State) : List Byte := (List.range (ceil8 s.bitLen.toNat)).map s.payByte

/-! ## Bits -/

/-- Stream bit j of a payload byte sequence: bit `7 − (j mod 8)` of byte `j div 8` (R43, R74). -/
def State.payBit (s : State) (j : Nat) : Bool := (s.payByte (j / 8)).getLsbD (7 - j % 8)

/-- The first BITLEN stream bits, in stream order; pad bits are never read (R75, R169). -/
def State.payBits (s : State) : List Bool := (List.range s.bitLen.toNat).map s.payBit

/-- A code's bits, the one of the first path step first: bit `len − 1 − t` of `val` is path step t (R78). -/
def Code.bits (c : Code) : List Bool :=
  (List.range c.len.toNat).map fun t => c.val.getLsbD (c.len.toNat - 1 - t)

/-! ## Tables -/

/-- Entry `i` of a table indexed by symbol. -/
def atSym {α : Type} (v : Vector α 256) (i : Byte) : α := v[i.toNat]'(i.isLt)

/-- `T[i] <- x` in a table indexed by symbol. -/
def setSym {α : Type} (v : Vector α 256) (i : Byte) (x : α) : Vector α 256 := v.set i.toNat x i.isLt

/-- The symbols 0, 1, …, 255 in ascending order. -/
def symbols : List Byte := (List.range 256).map (BitVec.ofNat 8)

/-- The symbols with a nonzero frequency, ascending (`presentSymbols_eq_filter` in Laws/Units says it by `atSym`). -/
def presentSymbols (f : Vector Word 256) : List Byte := ((symbols.zip f.toList).filter fun e => e.2 != 0).map Prod.fst

/-- The view `K` = popcount of the symbols with a nonzero frequency (R21). -/
def State.kView (s : State) : Nat := (presentSymbols s.freq).length

/-- A node's `kind`: true for an internal node (R15). -/
def Node.isInternal : Node → Bool
  | .leaf .. => false
  | .internal .. => true

/-- A node's `sym`; an internal node's is written 0 (R15). -/
def Node.sym : Node → Byte
  | .leaf b _ => b
  | .internal .. => 0

/-- A node's `freq` (R15). -/
def Node.freq : Node → Word
  | .leaf _ f => f
  | .internal f _ _ => f

/-- A node's `low`; a leaf's is written 0 (R15). -/
def Node.low : Node → BitVec 9
  | .leaf .. => 0
  | .internal _ l _ => l

/-- A node's `high`; a leaf's is written 0 (R15). -/
def Node.high : Node → BitVec 9
  | .leaf .. => 0
  | .internal _ _ h => h

/-- `NODE[m]`; an entry that is not held is unspecified (R15, U4; log 7). -/
def State.nodeAt (s : State) (m : Nat) : Node := (s.node[m]?).getD (Config.freeNode s.cmdEra m)

end Sys2Proof.Machine
end

