-- ==== Sys2Proof/Machine/Flags.lean ====
section
/-! DEFINITION. Every flag the spec computes: the codes of PHASE and ERR (R22, R200), the STATUS word (R23), the `irq` pin
(R212), and whether a command would be accepted (R90, R91). -/

namespace Sys2Proof.Machine

/-- The 4-bit value of a phase (R22). -/
def Phase.code : Phase → BitVec 4
  | .idle => 0
  | .count => 1
  | .build => 2
  | .walk => 3
  | .pack => 4
  | .frame => 5
  | .parse => 6
  | .unpack => 7

/-- The 4-bit error code (R200). -/
def ErrCode.code : ErrCode → BitVec 4
  | .noError => 0
  | .corruptContainer => 1
  | .malformedTable => 2
  | .configuration => 3
  | .capacity => 4
  | .illegalCommand => 5

/-- The STATUS register (R23): BUSY bit 0, DONE bit 1, ERR bits 7:4, PHASE bits 11:8, EPHASE bits 15:12, the rest 0. -/
def Status.word (st : Status) : Word :=
  0#16 ++ st.ephase.code ++ st.phase.code ++ st.err.code ++ 0#2 ++ BitVec.ofBool st.done ++ BitVec.ofBool st.busy

/-- INT_EN.IE_DONE, bit 0 (R25). -/
def State.ieDone (s : State) : Bool := s.intEn.getLsbD 0

/-- INT_EN.IE_ERR, bit 1 (R25). -/
def State.ieErr (s : State) : Bool := s.intEn.getLsbD 1

/-- The `irq` output: (IE_DONE and DONE) or (IE_ERR and ERR ≠ 0), a pure function of the state (R212). -/
def State.irq (s : State) : Bool :=
  (s.ieDone && s.status.done) || (s.ieErr && s.status.err != .noError)

/-- BUSY = 0 and ERR = 0: the core would accept a command other than CLRST and SRST (R90, R91). -/
def State.ready (s : State) : Bool := !s.status.busy && s.status.err == .noError

/-- The nine working commands, which acceptance makes BUSY (R92); NOP, CLRST and SRST are not. -/
def isWorking : Instr → Bool
  | .nop => false
  | .count => true
  | .build => true
  | .walk => true
  | .pack => true
  | .frame => true
  | .parse => true
  | .unpack => true
  | .compress => true
  | .decompress => true
  | .clrst => false
  | .srst => false

/-- The commands that will produce DST, whose acceptance clears DST_LEN (R92). -/
def producesDst : Instr → Bool
  | .nop => false
  | .count => false
  | .build => false
  | .walk => false
  | .pack => false
  | .frame => true
  | .parse => false
  | .unpack => true
  | .compress => true
  | .decompress => true
  | .clrst => false
  | .srst => false

/-- The phases a working command steps PHASE through (R98, R100, R101). -/
def phasesOf : Instr → List Phase
  | .nop => []
  | .count => [.count]
  | .build => [.build]
  | .walk => [.walk]
  | .pack => [.pack]
  | .frame => [.frame]
  | .parse => [.parse]
  | .unpack => [.unpack]
  | .compress => [.count, .build, .walk, .pack, .frame]
  | .decompress => [.parse, .build, .walk, .unpack]
  | .clrst => []
  | .srst => []

end Sys2Proof.Machine
end

