-- ==== Sys2Proof/Machine/Ops.lean ====
section
/-! DEFINITION. The shared operations: accepting a working command (R92), completing it (R93), the one error entry (R205),
the return from the error state (R96, R209), reset (R97, R230, R231), running a command's phases in order (R98, R100,
R101, R208), and the BUSY window (R236, R240). -/

namespace Sys2Proof.Machine

/-- Acceptance of a working command: `DONE <- 0; BUSY <- 1; PHASE <- first phase`; `DST_LEN <- 0` if it will produce DST
(R92). The command gets its number, which the free values are drawn with (log 14). -/
def accept (first : Phase) (clearsDst : Bool) (s : State) : State :=
  { s with
    status := { s.status with done := false, busy := true, phase := first }
    dstLen := if clearsDst then 0 else s.dstLen
    cmdEra := s.cmdEra + 1 }

/-- `PHASE <- p`, the sequencer's control transfer (R8, R100, R101). -/
def enterPhase (p : Phase) (s : State) : State := { s with status := { s.status with phase := p } }

/-- Completion without error: `BUSY <- 0; DONE <- 1; PHASE <- 0` (R93). -/
def complete (s : State) : State :=
  { s with status := { s.status with busy := false, done := true, phase := .idle } }

/-- The end of a working command for the hidden registers: "any value" until a unit starts its own again (U6, R30), so each
is the free value of this command; WSTK has 256 entries (R30; log 9). -/
def releaseHidden (s : State) : State :=
  { s with
    hidden := { Config.freeHidden s.cmdEra with wstk := (Config.freeHidden s.cmdEra).wstk.take 256 } }

/-- TAKING AN ERROR, the one error entry `raise e(info)` in phase `p` (R205): ERR, EPHASE and ERR_INFO are written, BUSY
and PHASE cleared, DONE set; nothing is saved and control goes nowhere. -/
def raise (e : ErrCode) (info : Word) (p : Phase) (s : State) : State :=
  { s with
    status := { busy := false, done := true, err := e, phase := .idle, ephase := p }
    errInfo := info }

/-- THE RETURN from the error state, what CLRST does (R96, R209): `DONE <- 0; ERR <- 0; EPHASE <- 0; ERR_INFO <- 0`. -/
def clearStatus (s : State) : State :=
  { s with
    status := { s.status with done := false, err := .noError, ephase := .idle }
    errInfo := 0 }

/-- Reset, hard or soft (R97, R230, R231): every piece of the core's state at its reset value. The parameter and the host's
own queue and replies are not the core's and stay; the two counters move on, so every unspecified byte and entry is a new
free value (log 13, log 14). -/
def resetCore (s : State) : State :=
  { State.resetOf s.cfg with
    host := s.host
    replies := s.replies
    resetEra := s.resetEra + 1
    cmdEra := s.cmdEra + 1 }

/-- The effect of writing an illegal word when BUSY = 0 and ERR = 0 (R95, R207): ERR = 5, ERR_INFO = the word, EPHASE = 0,
DONE = 1; nothing else changes. It is the error entry in phase 0. -/
def illegalCommand (w : Word) (s : State) : State := raise .illegalCommand w .idle s

/-- Run units in order, each with PHASE set to its own; the first `raise` ends the command there (R98, R100, R101, R205,
R208). Either way the hidden registers are then released (U6). -/
def runUnits : List (Phase × (State → UnitResult)) → State → Host.Outcome State Fault Refusal
  | [], s => .next (releaseHidden (complete s))
  | (p, unit) :: rest, s =>
    match unit (enterPhase p s) with
    | .done t => runUnits rest t
    | .raised e info t => .next (releaseHidden (raise e info p t))
    | .stuck f => .fault f

/-- A working command (R90, R91, R92): ignored while BUSY = 1 or ERR ≠ 0, else accepted and run. -/
def runWorking (first : Phase) (clearsDst : Bool) (units : List (Phase × (State → UnitResult))) (s : State) :
    Host.Outcome State Fault Refusal :=
  if s.ready then runUnits units (accept first clearsDst s) else .next s

/-! ## The BUSY window (R236, R240) -/

/-- The phases a command showed when it ended in phase `p`: those up to and including `p`. -/
def upToPhase (p : Phase) : List Phase → List Phase
  | [] => []
  | q :: qs => if q = p then [q] else q :: upToPhase p qs

/-- The phases that ran: all of them, or those up to the raising one (R205: "no phase after p has run"). -/
def shownPhases (ps : List Phase) (st : Status) : List Phase :=
  if st.err = .noError then ps else upToPhase st.ephase ps

/-- Put a command that has been run into its BUSY window: the host sees `BUSY = 1` and the first phase, DONE and ERR
are 0, and STATUS and ERR_INFO as the command leaves them are kept for its completion (R22, R23, R92, R240; log 1). -/
def openWindow (ps : List Phase) (t : State) : State :=
  { t with
    status := { busy := true, done := false, err := .noError, phase := ps.headD .idle, ephase := .idle }
    errInfo := 0
    flight := some
      { left := Config.busyWindow t.cmdEra
        phases := shownPhases ps t.status
        final := t.status
        info := t.errInfo }
    unseen := true }

/-- The command is complete: STATUS and ERR_INFO as it leaves them (R93, R205). -/
def closeWindow (f : Flight) (s : State) : State :=
  { s with status := f.final, errInfo := f.info, flight := none }

/-- Move on `n` phases, at most to the last. -/
def advancePhases : Nat → List Phase → List Phase
  | n + 1, _ :: q :: qs => advancePhases n (q :: qs)
  | _, ps => ps

/-- Time passes before a host transaction: outside a BUSY window nothing happens (R47 (b)); inside it, either the window
has ended and the command is complete, or the transaction falls inside it and the core may have moved on some phases
(R22, R240). How long the window is and how the phases move are free values (log 3). -/
def tick (s : State) : State :=
  match s.flight with
  | none => s
  | some f =>
    match f.left with
    | 0 => closeWindow f s
    | n + 1 =>
      let ps := advancePhases (Config.phaseAdvance s.cmdEra n) f.phases
      { s with
        status := { s.status with phase := ps.headD s.status.phase }
        flight := some { f with left := n, phases := ps } }

end Sys2Proof.Machine
end

