-- ==== Sys2Proof/Machine/CodeTable.lean ====
section
/-! DEFINITION. The code-table generator, command WALK (43_code_table R141 to R143): the depth-first walk with an explicit
stack. -/

namespace Sys2Proof.Machine

/-- The whole table with every valid bit 0 (R141, R143). -/
def emptyCodes : Vector (Option Code) 256 := Vector.replicate 256 none

/-- `while WSP > 0` (R141): pop a node; a leaf records its path, an internal node pushes `high` with path bit 1 and then
`low` with path bit 0, so that low is visited first. `none`: more node visits than `fuel`. -/
def walkLoop (nodeAt : Nat → Node) : Nat → List WalkEntry → Vector (Option Code) 256 → Option (Vector (Option Code) 256)
  | _, [], codes => some codes
  | 0, _ :: _, _ => none
  | fuel + 1, e :: stack, codes =>
    match nodeAt e.node.toNat with
    | .leaf sym _ => walkLoop nodeAt fuel stack (setSym codes sym (some ⟨e.len, e.val⟩))
    | .internal _ low high =>
      walkLoop nodeAt fuel
        (⟨low, e.len + 1, 2 * e.val⟩ :: ⟨high, e.len + 1, 2 * e.val + 1⟩ :: stack) codes

/-- The stack at the start: the root with the empty path (R141). -/
def walkStart (s : State) : List WalkEntry := [⟨s.nodeCnt - 1, 0, 0⟩]

/-- The table WALK writes (R141, R142, R143). Over an arena whose children have smaller indices than their parent (R16 (e))
the walk makes fewer than 2^NODE_CNT visits; `none` is a walk that makes more, over an arena that is no tree. -/
def walkTable (s : State) : Option (Vector (Option Code) 256) :=
  if s.nodeCnt = 0 then some emptyCodes
  else if s.nodeCnt = 1 then some (setSym emptyCodes (s.nodeAt 0).sym (some ⟨1, 0⟩))
  else walkLoop s.nodeAt (2 ^ s.nodeCnt.toNat) (walkStart s) emptyCodes

/-- WALK (R141): all 256 entries are rewritten, the stack is empty at the end; it cannot fail over a tree. -/
def walkUnit (s : State) : UnitResult :=
  match walkTable s with
  | some codes => .done { s with code := codes, hidden := { s.hidden with wstk := [] } }
  | none => .stuck .walkRunaway

/-- The command WALK (R98, R141). -/
def execWalk (s : State) : Host.Outcome State Fault Refusal :=
  runWorking .walk false [(.walk, walkUnit)] s

end Sys2Proof.Machine
end

