-- ==== Sys2Proof/Machine/Container.lean ====
section
/-! DEFINITION. The frame container, commands FRAME and PARSE (46_frame_container R181 to R190): the framer and the
deframer, over the byte layout of R70. -/

namespace Sys2Proof.Machine

/-! ## Framer -/

/-- The entry of symbol `b`: the symbol, then its frequency in four bytes, big-endian (R70, R181). -/
def entryBytes (f : Vector Word 256) (b : Byte) : List Byte := b :: beBytes 4 (atSym f b).toNat

/-- The container's header (R70): k in two bytes, the entries in ascending symbol order, B in four bytes. -/
def headerBytes (f : Vector Word 256) (bits : Nat) : List Byte :=
  beBytes 2 (presentSymbols f).length ++ (presentSymbols f).flatMap (entryBytes f) ++ beBytes 4 bits

/-- The container's length `L = 6 + 5·k + ceil8(BITLEN)` (R70, R181). -/
def State.frameLen (s : State) : Nat := 6 + 5 * s.kView + ceil8 s.bitLen.toNat

/-- The container FRAME writes (R70, R181, R183). -/
def State.frameBytes (s : State) : List Byte := headerBytes s.freq s.bitLen.toNat ++ s.payBytes

/-- FRAME (R181, R182): the length check precedes every write; the bytes go to DST in ascending index. -/
def frameUnit (s : State) : UnitResult :=
  if s.frameLen > s.bufBytes then .raised .capacity (BitVec.ofNat 32 s.bufBytes) s
  else .done
    { s with
      dst := Memory.storeList s.dst 0 s.frameBytes
      dstLen := BitVec.ofNat 32 s.frameLen
      hidden := { s.hidden with frmIdx := BitVec.ofNat 32 s.frameLen } }

/-- The command FRAME (R98, R181). -/
def execFrame (s : State) : Host.Outcome State Fault Refusal :=
  runWorking .frame true [(.frame, frameUnit)] s

/-! ## Deframer -/

/-- Step 5 of R188: the entries i, i+1, … (`count` of them, `seen` their predecessors, newest first), or the offset of the
first whose frequency is 0 or whose symbol already occurred. -/
def parseEntries (s : State) : Nat → Nat → List (Byte × Word) → Except Nat (List (Byte × Word))
  | 0, _, seen => .ok seen.reverse
  | count + 1, i, seen =>
    let o := 2 + 5 * i
    let sym := s.srcByte o
    let freq := s.srcRead (o + 1) 4
    if freq = 0 then .error o
    else if seen.any (fun e => e.1 == sym) then .error o
    else parseEntries s count (i + 1) ((sym, BitVec.ofNat 32 freq) :: seen)

/-- A container PARSE accepts: its entries, its bit-length B and its header length H (R70, R186). -/
structure Parsed where
  entries : List (Byte × Word)
  bits : Nat
  hdr : Nat
deriving DecidableEq, Repr

/-- `Σ_i freq_i`, on unbounded integers (R188). -/
def freqSum (es : List (Byte × Word)) : Nat := (es.map fun e => e.2.toNat).sum

/-- PARSE's checks, in order (R188): the container, or the error of the first check that fails and its `info`. -/
def parseChecks (s : State) : Except (ErrCode × Nat) Parsed :=
  let l := s.srcLen.toNat
  if l > s.bufBytes then .error (.capacity, s.bufBytes)
  else if l < 2 then .error (.malformedTable, l)
  else
    let k := s.srcRead 0 2
    if k > 256 then .error (.malformedTable, 0)
    else
      let h := 6 + 5 * k
      if l < h then .error (.malformedTable, l)
      else
        match parseEntries s k 0 [] with
        | .error o => .error (.malformedTable, o)
        | .ok es =>
          let b := s.srcRead (h - 4) 4
          if k = 0 ∧ b ≠ 0 then .error (.malformedTable, h - 4)
          else if freqSum es > s.cfg.nMax then .error (.capacity, 2)
          else if l ≠ h + ceil8 b then .error (.corruptContainer, min l (h + ceil8 b))
          else .ok ⟨es, b, h⟩

/-- FREQ with every entry 0 (R186, R190). -/
def zeroFreq : Vector Word 256 := Vector.replicate 256 0

/-- `FREQ[sym_i] <- freq_i` for each entry, over a table of zeros (R186). -/
def loadEntries (es : List (Byte × Word)) : Vector Word 256 := es.foldl (fun f e => setSym f e.1 e.2) zeroFreq

/-- PARSE (R186, R188, R190): on every error FREQ and BITLEN are cleared; else FREQ, BITLEN and PAY are loaded. -/
def parseUnit (s : State) : UnitResult :=
  match parseChecks s with
  | .error (e, info) => .raised e (BitVec.ofNat 32 info) { s with freq := zeroFreq, bitLen := 0 }
  | .ok c =>
    .done
      { s with
        freq := loadEntries c.entries
        bitLen := BitVec.ofNat 32 c.bits
        pay := Memory.storeList s.pay 0 (s.srcSlice c.hdr (ceil8 c.bits))
        hidden := { s.hidden with prsIdx := s.srcLen } }

/-- The command PARSE (R98, R186). -/
def execParse (s : State) : Host.Outcome State Fault Refusal :=
  runWorking .parse false [(.parse, parseUnit)] s

end Sys2Proof.Machine
end

