-- ==== Sys2Proof/Machine/Counter.lean ====
section
/-! DEFINITION. The frequency counter, command COUNT (41_frequency_counter R110, R111). -/

namespace Sys2Proof.Machine

/-- One micro-step: `FREQ[b] <- FREQ[b] + 1` (R111). -/
def tally (f : Vector Word 256) (b : Byte) : Vector Word 256 := setSym f b (atSym f b + 1)

/-- `for s: FREQ[s] <- 0`, then one micro-step per input byte in index order (R111). -/
def countBytes (bs : List Byte) : Vector Word 256 := bs.foldl tally (Vector.replicate 256 0)

/-- COUNT (R110, R111): the length check precedes every write. -/
def countUnit (s : State) : UnitResult :=
  if s.srcLen.toNat > s.cfg.nMax then .raised .capacity (BitVec.ofNat 32 s.cfg.nMax) s
  else .done
    { s with
      freq := countBytes s.srcBytes
      hidden := { s.hidden with cntIdx := s.srcLen } }

/-- The command COUNT (R98, R111). -/
def execCount (s : State) : Host.Outcome State Fault Refusal :=
  runWorking .count false [(.count, countUnit)] s

end Sys2Proof.Machine
end

