-- ==== Sys2Proof/Machine/TreeBuilder.lean ====
section
/-! DEFINITION. The Huffman tree builder, command BUILD (42_tree_builder R120 to R126): leaf loader, priority-queue
arbiter, node merger. -/

namespace Sys2Proof.Machine

/-- The builder's working state: the arena built so far (its length is `n`) and the queue's members, ascending (R120,
R17). -/
structure Builder where
  nodes : List Node
  inq : List Nat
deriving DecidableEq, Repr

/-- The leaves, in ascending symbol value: one per symbol with nonzero frequency (R121). -/
def leavesOf (f : Vector Word 256) : List Node := (presentSymbols f).map fun b => .leaf b (atSym f b)

/-- LOAD_LEAVES (R121): the leaves occupy `NODE[0..k)` and all are in the queue. -/
def loadLeaves (f : Vector Word 256) : Builder :=
  { nodes := leavesOf f, inq := List.range (leavesOf f).length }

/-- `NODE[i].freq` in the builder's own arena, where every queue member lies. -/
def arenaFreq (nodes : List Node) (i : Nat) : Word :=
  match nodes[i]? with
  | some n => n.freq
  | none => 0

/-- The arbiter's key order: `(freq, index)` compared lexicographically, unsigned (R122, R123). -/
def keyLt (nodes : List Node) (i j : Nat) : Bool :=
  decide ((arenaFreq nodes i).toNat < (arenaFreq nodes j).toNat) ||
    (arenaFreq nodes i == arenaFreq nodes j && decide (i < j))

/-- The smaller of two members by key (R122). -/
def keyMin (nodes : List Node) (i j : Nat) : Nat := if keyLt nodes j i then j else i

/-- PQ_MIN (R122): the member with the smallest key. It is called only with at least one member. -/
def pqMin (nodes : List Node) : List Nat → Nat
  | [] => 0
  | i :: rest => rest.foldl (keyMin nodes) i

/-- MERGE(a, b) (R124): the internal node with the children `low = a`, `high = b`, and the sum of their frequencies. -/
def mergeNode (nodes : List Node) (a b : Nat) : Node :=
  .internal (arenaFreq nodes a + arenaFreq nodes b) (BitVec.ofNat 9 a) (BitVec.ofNat 9 b)

/-- One iteration of BUILD's loop (R120): remove the two smallest, then create and insert the node over them. -/
def mergeStep (b : Builder) : Builder :=
  let lo := pqMin b.nodes b.inq
  let q := b.inq.erase lo
  let hi := pqMin b.nodes q
  { nodes := b.nodes ++ [mergeNode b.nodes lo hi]
    inq := q.erase hi ++ [b.nodes.length] }

/-- `while popcount(INQ) > 1` (R120). Each iteration takes one member off the queue (R125), so as many iterations as there
are members are more than enough. -/
def mergeLoop : Nat → Builder → Builder
  | 0, b => b
  | n + 1, b => if b.inq.length > 1 then mergeLoop n (mergeStep b) else b

/-- The tree of a frequency table: a function of FREQ alone (R120, R127 (k)). -/
def buildTree (f : Vector Word 256) : Builder := mergeLoop (loadLeaves f).inq.length (loadLeaves f)

/-- BUILD (R120, R125); it cannot fail. -/
def buildUnit (s : State) : UnitResult :=
  let b := buildTree s.freq
  .done { s with node := b.nodes, inq := b.inq, nodeCnt := BitVec.ofNat 9 b.nodes.length }

/-- The command BUILD (R98, R120). -/
def execBuild (s : State) : Host.Outcome State Fault Refusal :=
  runWorking .build false [(.build, buildUnit)] s

end Sys2Proof.Machine
end

