-- ==== Sys2Proof/Machine/Packer.lean ====
section
/-! DEFINITION. The bit-stream packer, command PACK (44_bit_packer R151 to R158): code lookup, bit shifter, byte boundary
handler. -/

namespace Sys2Proof.Machine

/-- The packer's working state: `ACC`, `ACC_CNT`, `PK_P`, `BITLEN` and the memory PAY (R30, R151). Counts are natural
numbers, as R104 allows. -/
structure Packer where
  acc : Byte
  accCnt : Nat
  pkP : Nat
  bitLen : Nat
  pay : Memory
deriving DecidableEq, Repr

/-- `ACC <- 0; ACC_CNT <- 0; PK_P <- 0; BITLEN <- 0` (R151). -/
def Packer.start (pay : Memory) : Packer := ⟨0, 0, 0, 0, pay⟩

/-- How the packer's and the unpacker's loops end: with a state, or with `raise e(info)` in one. -/
inductive LoopEnd (σ : Type) where
  | fine (x : σ)
  | raised (e : ErrCode) (info : Nat) (x : σ)
deriving DecidableEq, Repr

/-- The state a loop ends in, with or without an error. -/
def LoopEnd.state {σ : Type} : LoopEnd σ → σ
  | .fine x => x
  | .raised _ _ x => x

/-- The bit shifter's shift: `((ACC << 1) | bit) & 0xFF` (R151, R154). -/
def shiftIn (acc : Byte) (bit : Bool) : Byte := (acc <<< 1) ||| (BitVec.ofBool bit).setWidth 8

/-- One micro-step: append one bit, and store the eighth of a group as one byte (R151, R154, R155). `off` is the SRC offset
a CapacityError reports (R158 (b)). -/
def appendBit (cap off : Nat) (p : Packer) (bit : Bool) : LoopEnd Packer :=
  let acc := shiftIn p.acc bit
  if p.accCnt + 1 = 8 then
    if p.pkP ≥ cap then .raised .capacity off { p with acc := acc, accCnt := 8, bitLen := p.bitLen + 1 }
    else .fine ⟨0, 0, p.pkP + 1, p.bitLen + 1, Memory.store p.pay p.pkP acc⟩
  else .fine { p with acc := acc, accCnt := p.accCnt + 1, bitLen := p.bitLen + 1 }

/-- Append a code's bits, most significant first (R154). -/
def appendBits (cap off : Nat) : List Bool → Packer → LoopEnd Packer
  | [], p => .fine p
  | b :: bs, p =>
    match appendBit cap off p b with
    | .fine q => appendBits cap off bs q
    | .raised e i q => .raised e i q

/-- The final partial byte (R151, R156): the collected bits at the high-order end, the pad bits below them 0. -/
def flushLast (cap off : Nat) (p : Packer) : LoopEnd Packer :=
  if p.accCnt > 0 then
    if p.pkP ≥ cap then .raised .capacity off p
    else .fine { p with pkP := p.pkP + 1, pay := Memory.store p.pay p.pkP (p.acc <<< (8 - p.accCnt)) }
  else .fine p

/-- "for each input symbol in original order" (R151): code lookup (R152, R153), then its bits; after the last symbol the
final partial byte, whose CapacityError reports SRC_LEN. `i` is PK_I. -/
def packLoop (cap : Nat) (code : Vector (Option Code) 256) : Nat → List Byte → Packer → LoopEnd Packer
  | i, [], p => flushLast cap i p
  | i, b :: bs, p =>
    match atSym code b with
    | none => .raised .configuration i p
    | some c =>
      match appendBits cap i c.bits p with
      | .fine q => packLoop cap code (i + 1) bs q
      | .raised e j q => .raised e j q

/-- The packer's hidden registers after its loop (R30, R151 "After success `PK_P = ceil8(BITLEN)`"), until the command's end
releases them. -/
def packHidden (h : Hidden) (i : Nat) (p : Packer) : Hidden :=
  { h with
    acc := p.acc
    accCnt := BitVec.ofNat 4 p.accCnt
    pkI := BitVec.ofNat 32 i
    pkP := BitVec.ofNat 32 p.pkP }

/-- PACK's loop over SRC[0..SRC_LEN), from the start of PAY (R151). -/
def packRun (s : State) : LoopEnd Packer := packLoop s.bufBytes s.code 0 s.srcBytes (Packer.start s.pay)

/-- How many bytes PACK stores, whether it fails or not: PAY[0..PK_P) of its loop, none where the length check fails. -/
def packStored (s : State) : Nat := if s.srcLen.toNat > s.cfg.nMax then 0 else (packRun s).state.pkP

/-- PACK (R151): `FAIL(E, info)` is `BITLEN <- 0; raise E(info)`, and the bytes of PAY already written stay (R157). -/
def packUnit (s : State) : UnitResult :=
  if s.srcLen.toNat > s.cfg.nMax then
    .raised .capacity (BitVec.ofNat 32 s.cfg.nMax) { s with bitLen := 0 }
  else
    match packRun s with
    | .fine p =>
      .done { s with pay := p.pay, bitLen := BitVec.ofNat 32 p.bitLen, hidden := packHidden s.hidden s.srcLen.toNat p }
    | .raised e i p =>
      .raised e (BitVec.ofNat 32 i) { s with pay := p.pay, bitLen := 0, hidden := packHidden s.hidden i p }

/-- The command PACK (R98, R151). -/
def execPack (s : State) : Host.Outcome State Fault Refusal :=
  runWorking .pack false [(.pack, packUnit)] s

end Sys2Proof.Machine
end

