-- ==== Sys2Proof/Machine/Unpacker.lean ====
section
/-! DEFINITION. The bit-stream unpacker, command UNPACK (45_bit_unpacker R167 to R174): bit shifter, prefix-match state
machine over the retained tree, symbol emitter. -/

namespace Sys2Proof.Machine

/-- The unpacker's working state: `CUR`, `UP_O` and the memory DST (R30, R167). -/
structure Unpacker where
  cur : BitVec 9
  upO : Nat
  dst : Memory
deriving DecidableEq, Repr

/-- EMIT(sym) (R167, R173): raw output is limited to N_MAX bytes; `j` is UP_J. -/
def emit (nMax j : Nat) (u : Unpacker) (sym : Byte) : LoopEnd Unpacker :=
  if u.upO ≥ nMax then .raised .capacity j u
  else .fine { u with upO := u.upO + 1, dst := Memory.store u.dst u.upO sym }

/-- One micro-step over a single-leaf tree (R171): a 0 bit is the code, a 1 bit the prefix of none. -/
def unpackSingle (nMax j : Nat) (nodeAt : Nat → Node) (u : Unpacker) (bit : Bool) : LoopEnd Unpacker :=
  if bit then .raised .corruptContainer j u else emit nMax j u (nodeAt 0).sym

/-- The prefix-match step (R170): `low` on 0, `high` on 1; at a leaf emit its symbol and go back to the root. -/
def unpackMatch (nMax j : Nat) (nodeAt : Nat → Node) (root : BitVec 9) (u : Unpacker) (bit : Bool) : LoopEnd Unpacker :=
  let here := nodeAt u.cur.toNat
  let next := if bit then here.high else here.low
  match nodeAt next.toNat with
  | .leaf sym _ =>
    match emit nMax j { u with cur := next } sym with
    | .fine v => .fine { v with cur := root }
    | .raised e i v => .raised e i v
  | .internal .. => .fine { u with cur := next }

/-- One micro-step (R167): which of the two it is depends on NODE_CNT. -/
def unpackBit (nMax j : Nat) (nodeAt : Nat → Node) (single : Bool) (root : BitVec 9) (u : Unpacker) (bit : Bool) :
    LoopEnd Unpacker :=
  if single then unpackSingle nMax j nodeAt u bit else unpackMatch nMax j nodeAt root u bit

/-- `for UP_J in 0..BITLEN−1` (R167), then the mid-code check (R172), whose `info` is BITLEN, the index past the last bit. -/
def unpackLoop (nMax : Nat) (nodeAt : Nat → Node) (single : Bool) (root : BitVec 9) :
    Nat → List Bool → Unpacker → LoopEnd Unpacker
  | j, [], u => if u.cur ≠ root then .raised .corruptContainer j u else .fine u
  | j, bit :: bits, u =>
    match unpackBit nMax j nodeAt single root u bit with
    | .fine v => unpackLoop nMax nodeAt single root (j + 1) bits v
    | .raised e i v => .raised e i v

/-- The unpacker's hidden registers after its loop (R30), until the command's end releases them. -/
def unpackHidden (h : Hidden) (j : Nat) (u : Unpacker) : Hidden :=
  { h with cur := u.cur, upJ := BitVec.ofNat 32 j, upO := BitVec.ofNat 32 u.upO }

/-- The root, `NODE_CNT − 1` (R167). -/
def State.root (s : State) : BitVec 9 := s.nodeCnt - 1

/-- UNPACK's loop over the stream bits, from the root and the start of DST (R167). -/
def unpackRun (s : State) : LoopEnd Unpacker :=
  unpackLoop s.cfg.nMax s.nodeAt (s.nodeCnt == 1) s.root 0 s.payBits ⟨s.root, 0, s.dst⟩

/-- How many bytes UNPACK stores, whether it fails or not: DST[0..UP_O) of its loop, none where it has no bit or no tree. -/
def unpackStored (s : State) : Nat := if s.bitLen = 0 ∨ s.nodeCnt = 0 then 0 else (unpackRun s).state.upO

/-- UNPACK (R167, R168, R174): no bit, no tree access; bits but no tree, an error; on every error the bytes already stored
stay in DST and DST_LEN is 0, which acceptance made it (R92). -/
def unpackUnit (s : State) : UnitResult :=
  if s.bitLen = 0 then .done { s with dstLen := 0, hidden := { s.hidden with upO := 0 } }
  else if s.nodeCnt = 0 then .raised .corruptContainer 0 { s with hidden := { s.hidden with upO := 0 } }
  else
    match unpackRun s with
    | .fine u =>
      .done
        { s with
          dst := u.dst
          dstLen := BitVec.ofNat 32 u.upO
          hidden := unpackHidden s.hidden s.bitLen.toNat u }
    | .raised e i u =>
      .raised e (BitVec.ofNat 32 i) { s with dst := u.dst, hidden := unpackHidden s.hidden i u }

/-- The command UNPACK (R98, R167). -/
def execUnpack (s : State) : Host.Outcome State Fault Refusal :=
  runWorking .unpack true [(.unpack, unpackUnit)] s

end Sys2Proof.Machine
end

