-- ==== Sys2Proof/Machine/Macro.lean ====
section
/-! DEFINITION. The macro commands COMPRESS and DECOMPRESS (40_host_commands R100, R101): the units in order, ended by the
first error. -/

namespace Sys2Proof.Machine

/-- COMPRESS (R100): COUNT; BUILD; WALK; PACK; FRAME. -/
def execCompress (s : State) : Host.Outcome State Fault Refusal :=
  runWorking .count true
    [(.count, countUnit), (.build, buildUnit), (.walk, walkUnit), (.pack, packUnit), (.frame, frameUnit)] s

/-- DECOMPRESS (R101): PARSE; BUILD; WALK; UNPACK. -/
def execDecompress (s : State) : Host.Outcome State Fault Refusal :=
  runWorking .parse true
    [(.parse, parseUnit), (.build, buildUnit), (.walk, walkUnit), (.unpack, unpackUnit)] s

end Sys2Proof.Machine
end

