-- ==== Sys2Proof/Machine/System.lean ====
section
/-! DEFINITION. The system commands NOP, CLRST and SRST (40_host_commands R94, R96, R97). -/

namespace Sys2Proof.Machine

/-- NOP (R94): state S to state S; ignored, with the same effect, while BUSY = 1 or ERR ≠ 0. -/
def execNop (s : State) : Host.Outcome State Fault Refusal := .next s

/-- CLRST (R96, R209): accepted with ERR = 0 or not, ignored while BUSY = 1 (R90). -/
def execClrst (s : State) : Host.Outcome State Fault Refusal :=
  if s.status.busy then .next s else .next (clearStatus s)

/-- SRST (R97): accepted in every state; a running command is abandoned. -/
def execSrst (s : State) : Host.Outcome State Fault Refusal := .next (resetCore s)

end Sys2Proof.Machine
end

