-- ==== Sys2Proof/Machine/Bus.lean ====
section
/-! DEFINITION. The host interface: the register map (R29), what a host read returns and does and what a host write does
(R20 to R28, R42), the CMD decoder's dispatch (R90, R91, R95), accesses while BUSY = 1 (R236), and one host operation
(R41, R81, R230), refused where R41 or R236 says so. -/

namespace Sys2Proof.Machine

/-- The seventeen host registers (R29). -/
inductive Reg where
  | id
  | cmd
  | status
  | errInfo
  | intEn
  | srcLen
  | dstLen
  | k
  | bitLen
  | nodeCnt
  | srcPtr
  | srcData
  | dstPtr
  | dstData
  | tblSel
  | tblIdx
  | tblData
deriving DecidableEq, Repr

/-- The register at a byte offset from the block's base address; the offsets 0x44..0xFC are reserved (R29). -/
def regAt (off : Nat) : Option Reg :=
  match off with
  | 0x00 => some .id
  | 0x04 => some .cmd
  | 0x08 => some .status
  | 0x0C => some .errInfo
  | 0x10 => some .intEn
  | 0x14 => some .srcLen
  | 0x18 => some .dstLen
  | 0x1C => some .k
  | 0x20 => some .bitLen
  | 0x24 => some .nodeCnt
  | 0x28 => some .srcPtr
  | 0x2C => some .srcData
  | 0x30 => some .dstPtr
  | 0x34 => some .dstData
  | 0x38 => some .tblSel
  | 0x3C => some .tblIdx
  | 0x40 => some .tblData
  | _ => none

/-! ## The table port (R28) -/

/-- What a read of an unspecified entry returns (R28, U9; log 6). -/
def State.staleWord (s : State) : Word := Config.staleTableWord s.cmdEra s.tblSel.toNat s.tblIdx.toNat

/-- Word 1 of a NODE entry: `{kind, 0[4:0], sym, low, high}` (R28). -/
def Node.word1 (n : Node) : Word := BitVec.ofBool n.isInternal ++ 0#5 ++ n.sym ++ n.low ++ n.high

/-- Word `w` of a valid CODE entry: w = 0 `{valid, 0[22:0], len}`, w = 1..8 the words of `zext_256(val)`, least significant
first, w = 9..15 zero (R28). -/
def Code.wordAt (c : Code) (w : Nat) : Word :=
  if w = 0 then 1#1 ++ 0#23 ++ c.len
  else if w ≤ 8 then (c.val.setWidth 256).extractLsb' (32 * (w - 1)) 32
  else 0

/-- Word `w` of an entry whose valid bit is 0: bit 31 of word 0 is 0, the words 9..15 are 0, all else is unspecified (R28,
U5; log 19). -/
def State.invalidCodeWord (s : State) (w : Nat) : Word :=
  if w = 0 then 0#1 ++ s.staleWord.extractLsb' 0 31
  else if w ≤ 8 then s.staleWord
  else 0

/-- What TBL_DATA returns (R28); an index outside the table's range reads 0. -/
def State.tableRead (s : State) : Word :=
  let i := s.tblIdx.toNat
  match s.tblSel.toNat with
  | 0 => if h : i < 256 then s.freq[i] else 0
  | 1 =>
    if i < 1022 then
      if i / 2 < s.nodeCnt.toNat then
        if i % 2 = 0 then (s.nodeAt (i / 2)).freq else (s.nodeAt (i / 2)).word1
      else s.staleWord
    else 0
  | 2 =>
    if i < 4096 then
      match atSym s.code (BitVec.ofNat 8 (i / 16)) with
      | some c => c.wordAt (i % 16)
      | none => s.invalidCodeWord (i % 16)
    else 0
  | _ =>
    if i < s.bufBytes then
      if i < ceil8 s.bitLen.toNat then (s.payByte i).setWidth 32 else s.staleWord
    else 0

/-! ## Register reads and writes while BUSY = 0 -/

/-- `DST[i]` as the host sees it: at an index ≥ DST_LEN an unspecified byte (R12, R27, U2; log 6). -/
def State.dstRead (s : State) (i : Nat) : Byte :=
  if i < s.dstLen.toNat then s.dstByte i else Config.staleByte s.cmdEra i

/-- The value a read of a register returns (R20 to R29). -/
def State.regValue (s : State) : Reg → Word
  | .id => Config.idWord
  | .cmd => 0
  | .status => s.status.word
  | .errInfo => s.errInfo
  | .intEn => s.intEn.setWidth 32
  | .srcLen => s.srcLen
  | .dstLen => s.dstLen
  | .k => BitVec.ofNat 32 s.kView
  | .bitLen => s.bitLen
  | .nodeCnt => s.nodeCnt.setWidth 32
  | .srcPtr => s.srcPtr
  | .srcData => if s.srcPtr.toNat < s.bufBytes then (s.srcByte s.srcPtr.toNat).setWidth 32 else 0
  | .dstPtr => s.dstPtr
  | .dstData => if s.dstPtr.toNat < s.bufBytes then (s.dstRead s.dstPtr.toNat).setWidth 32 else 0
  | .tblSel => s.tblSel.setWidth 32
  | .tblIdx => s.tblIdx
  | .tblData => s.tableRead

/-- A read's side effect: the two data ports advance their pointer while it is < BUF_BYTES; every other read has none (R26,
R27, R42). -/
def State.afterRead (s : State) : Reg → State
  | .srcData => if s.srcPtr.toNat < s.bufBytes then { s with srcPtr := s.srcPtr + 1 } else s
  | .dstData => if s.dstPtr.toNat < s.bufBytes then { s with dstPtr := s.dstPtr + 1 } else s
  | _ => s

/-- A write of a register other than CMD (R20, R25 to R29): read-only registers ignore it. -/
def State.regWrite (s : State) (d : Word) : Reg → State
  | .intEn => { s with intEn := d.setWidth 2 }
  | .srcLen => { s with srcLen := d }
  | .srcPtr => { s with srcPtr := d }
  | .srcData =>
    if s.srcPtr.toNat < s.bufBytes then
      { s with src := Memory.store s.src s.srcPtr.toNat (d.setWidth 8), srcPtr := s.srcPtr + 1 }
    else s
  | .dstPtr => { s with dstPtr := d }
  | .tblSel => { s with tblSel := d.setWidth 2 }
  | .tblIdx => { s with tblIdx := d }
  | _ => s

/-! ## CMD -/

/-- What the step adds around a command that was run from `s` and left `t`: a working command that was accepted goes into
its BUSY window (R92, R240). -/
def launch (i : Instr) (s t : State) : State :=
  if isWorking i && s.ready then openWindow (phasesOf i) t else t

/-- A write of an illegal word (R63, R90, R91, R95): IllegalCommand when a command would be accepted, else ignored. -/
def writeIllegal (w : Word) (s : State) : State := if s.ready then illegalCommand w s else s

/-- A host write of `w` to CMD (R90). -/
def writeCmd (w : Word) (s : State) : Host.Outcome State Fault Refusal :=
  match decode w with
  | .instr i =>
    match exec i s with
    | .next t => .next (launch i s t)
    | .fault f => .fault f
    | .refused r => .refused r
  | .rejected _ => .next (writeIllegal w s)

/-! ## Host transactions -/

/-- Give the host a read's value. -/
def reply (v : Word) (s : State) : State := { s with replies := v :: s.replies }

/-- The host has seen BUSY = 0 (R236). -/
def seeIdle (s : State) : State := { s with unseen := false }

/-- `HostRead(off)` while BUSY = 1 (R236): STATUS and ID have their values, every other read an unspecified value, and
none has a side effect. -/
def busyRead (off : Nat) (s : State) : State :=
  match regAt off with
  | some .status => reply s.status.word s
  | some .id => reply Config.idWord s
  | _ => reply (Config.busyReadWord s.cmdEra ((s.flight.map Flight.left).getD 0)) s

/-- `HostRead(off)` while BUSY = 0: a reserved offset reads 0 (R29). Reading STATUS shows the host BUSY = 0. -/
def idleRead (off : Nat) (s : State) : State :=
  match regAt off with
  | some .status => seeIdle (reply s.status.word s)
  | some r => reply (s.regValue r) (s.afterRead r)
  | none => reply 0 s

/-- `HostRead(off)` (R41). -/
def hostRead (off : Nat) (s : State) : State := if s.status.busy then busyRead off s else idleRead off s

/-- `HostWrite(off, d)` (R41): a write of CMD goes to the decoder, which itself ignores what R91 says it ignores; while
BUSY = 1 every other write is ignored (R236); a reserved offset ignores writes (R29). -/
def hostWrite (off : Nat) (d : Word) (s : State) : Host.Outcome State Fault Refusal :=
  match regAt off with
  | some .cmd => writeCmd d s
  | some r => .next (if s.status.busy then s else s.regWrite d r)
  | none => .next s

/-- What the host may do while it has not seen BUSY = 0: read STATUS or ID, write CMD with SRST, wait (R236). -/
def allowedUnseen : HostOp → Bool
  | .read off => off == 0x00 || off == 0x08
  | .write off d => off == 0x04 && d == encode .srst
  | .irregular .. => false
  | .wait => true
  | .waitIrq => true
  | .hardReset => true

/-- A 32-bit transaction at `off`: refused outside the interface (R41, I1), refused where R236 does not allow it (U7,
log 4), else its effect. -/
def transaction (off : Nat) (op : HostOp) (s : State) (effect : Host.Outcome State Fault Refusal) :
    Host.Outcome State Fault Refusal :=
  if !transactionWf 32 off then .refused (.outsideInterface 32 off)
  else if s.unseen && !allowedUnseen op then .refused (.busyAccess off)
  else effect

/-- One host operation, taken off the queue already. -/
def hostStep (op : HostOp) (s : State) : Host.Outcome State Fault Refusal :=
  match op with
  | .read off => transaction off op s (.next (hostRead off (tick s)))
  | .write off d => transaction off op s (hostWrite off d (tick s))
  | .irregular width off => .refused (.outsideInterface width off)
  | .wait =>
    let t := tick s
    let u := hostRead 0x08 t
    .next (if t.status.busy then { u with host := .wait :: u.host } else u)
  | .waitIrq =>
    let t := tick s
    .next (if t.irq then t else { t with host := .waitIrq :: t.host })
  | .hardReset => .next (resetCore s)

end Sys2Proof.Machine
end

