-- ==== Sys2Proof/Machine/Script.lean ====
section
/-! DEFINITION. The host-script notation (R80, R81) as lists of host operations. -/

namespace Sys2Proof.Machine.Script

/-- `WR <reg>, <value>` (R80). -/
def wr (off : Nat) (d : Word) : List HostOp := [.write off d]

/-- `RD <reg>` (R80). -/
def rd (off : Nat) : List HostOp := [.read off]

/-- `CMD <mnemonic>` (R80). -/
def cmd (i : Instr) : List HostOp := [.write 0x04 (encode i)]

/-- `WAIT` (R81). -/
def wait : List HostOp := [.wait]

/-- `RUN <mnemonic>` (R81). -/
def run (i : Instr) : List HostOp := cmd i ++ wait

/-- `LOADSRC b0 b1 …` (R81). -/
def loadSrc (bs : List Byte) : List HostOp :=
  wr 0x28 0 ++ bs.map (fun b => .write 0x2C (b.setWidth 32)) ++ wr 0x14 (BitVec.ofNat 32 bs.length)

/-- `READDST n` (R81). -/
def readDst (n : Nat) : List HostOp := wr 0x30 0 ++ List.replicate n (.read 0x34)

/-- `RDTBL <sel>, <idx>` (R81). -/
def rdTbl (sel idx : Word) : List HostOp := wr 0x38 sel ++ wr 0x3C idx ++ rd 0x40

end Sys2Proof.Machine.Script
end

