-- ==== Sys2Proof/Machine/Step.lean ====
section
/-! DEFINITION. One step of the machine: the next host operation, in the order the host issues them (R47); with none
pending, time passes (R214, R240). -/

namespace Sys2Proof.Machine

/-- One step. -/
def step (s : State) : Host.Outcome State Fault Refusal :=
  match s.host with
  | [] => .next (tick s)
  | op :: rest => hostStep op { s with host := rest }

/-- `s` with a host that has seen BUSY = 0 (R236) and is about to write the command word of a table row to CMD (R60, R90):
the very next step runs it (log 15). -/
def State.withFetchWord (s : State) (nbits w : Nat) : State :=
  { s with
    host := .write 0x04 (BitVec.ofNat 32 (tableWord nbits w)) :: s.host
    unseen := false }

end Sys2Proof.Machine
end

