-- ==== Sys2Proof/Safety.lean ====
section
/-! DEFINITION. What claims are stated in: the words of STATUS, the invariants the rules promise (R13, R14, R16, R18, R20,
R22 to R24, R206), the shape of a tree (R16), prefix-freeness (R78, R144), what the host may do while BUSY = 1 (R236), and
what a safe step is. -/

namespace Sys2Proof.Machine

/-! ## STATUS -/

/-- STATUS = 0x00000002: a command finished without error (R93). -/
def Status.finished : Status := ⟨false, true, .noError, .idle, .idle⟩

/-- STATUS after `raise e` in phase `p` (R205). -/
def Status.failed (e : ErrCode) (p : Phase) : Status := ⟨false, true, e, .idle, p⟩

/-- The errors each phase raises, and `idle` for IllegalCommand (R200, R206). -/
def errPhaseOk (e : ErrCode) (p : Phase) : Bool :=
  match e with
  | .noError => p == .idle
  | .corruptContainer => p == .parse || p == .unpack
  | .malformedTable => p == .parse
  | .configuration => p == .pack
  | .capacity => p == .count || p == .pack || p == .frame || p == .parse || p == .unpack
  | .illegalCommand => p == .idle

/-- What STATUS and ERR_INFO hold while no command runs: BUSY = 0 and PHASE = 0 (R22); EPHASE fits ERR (R206); ERR_INFO is
0 when ERR is 0 (R24); an error has set DONE (R205, R95). -/
def latchOk (st : Status) (info : Word) : Bool :=
  !st.busy && st.phase == .idle && errPhaseOk st.err st.ephase &&
    (if st.err == .noError then info == 0 else st.done)

/-- What they hold while a command runs: BUSY = 1, PHASE one of its phases, no error and DONE = 0 (R22, R92), and what it
will leave is what a finished command leaves. -/
def flightOk (st : Status) (info : Word) (f : Flight) : Bool :=
  st == ⟨true, false, .noError, f.phases.headD .idle, .idle⟩ && info == 0 &&
    !f.phases.isEmpty && f.phases.all (fun p => p != .idle) &&
    latchOk f.final f.info && f.final.done && f.final.err != .illegalCommand

/-- The invariant of STATUS and ERR_INFO (R22, R23, R24, R200, R206). -/
def State.statusOk (s : State) : Bool :=
  match s.flight with
  | none => latchOk s.status s.errInfo
  | some f => flightOk s.status s.errInfo f && s.unseen

/-! ## Memories -/

/-- A byte memory in canonical form with no index past the capacity (R40, R45). -/
def Memory.ok (cap : Nat) (m : Memory) : Bool := m.wf && m.all fun c => decide (c.1 < cap)

/-- The invariant of the three byte memories. -/
def State.memoriesOk (s : State) : Bool :=
  s.src.ok s.bufBytes && s.dst.ok s.bufBytes && s.pay.ok s.bufBytes

/-- The first `n` bytes have been written since reset and fit the memory (R12, R13, R20). -/
def Memory.written (cap : Nat) (m : Memory) (n : Nat) : Prop := n ≤ cap ∧ ∀ i < n, (m.lookup i).isSome

/-- "`PAY[0..ceil8(BITLEN))` has been written" (R13). -/
def State.payloadOk (s : State) : Prop := s.pay.written s.bufBytes (ceil8 s.bitLen.toNat)

/-- `DST[0..DST_LEN)` has been written, and DST_LEN ≤ BUF_BYTES (R12, R20). -/
def State.outputOk (s : State) : Prop := s.dst.written s.bufBytes s.dstLen.toNat

/-! ## Tables -/

/-- `Σ_s FREQ[s]`, on unbounded integers (R14). -/
def freqTotal (f : Vector Word 256) : Nat := (f.toList.map BitVec.toNat).sum

/-- The invariant of FREQ: `Σ_s FREQ[s] ≤ N_MAX` (R14). -/
def State.freqOk (s : State) : Prop := freqTotal s.freq ≤ s.cfg.nMax

/-- The children of a node, low first (R15). -/
def Node.children : Node → List Nat
  | .leaf .. => []
  | .internal _ l h => [l.toNat, h.toNat]

/-- The symbols of the leaves, in arena order. -/
def leafSymbols (ns : List Node) : List Byte := (ns.filter fun n => !n.isInternal).map Node.sym

/-- The tree invariants of an arena with `k` leaves (R16): (a) 2k − 1 nodes, or none; (b) the leaves come first in ascending
symbol order, then the internal nodes; (c) so the leaves' symbols are distinct; (d) an internal node has two children;
(e) every child's index is smaller than its parent's and no node has two parents; R15: an internal node's frequency is the
sum of its children's. -/
structure TreeShape (k : Nat) (ns : List Node) : Prop where
  size : ns.length = 2 * k - 1
  fits : k ≤ 256
  leaves : ∀ n ∈ ns.take k, n.isInternal = false
  internals : ∀ n ∈ ns.drop k, n.isInternal = true
  ascending : ((ns.take k).map fun n => n.sym.toNat).Pairwise (· < ·)
  below : ∀ i (n : Node), ns[i]? = some n → ∀ c ∈ n.children, c < i
  oneParent : (ns.flatMap Node.children).Nodup
  sums : ∀ (i : Nat) (f : Word) (l h : BitVec 9), ns[i]? = some (Node.internal f l h) →
    f = arenaFreq ns l.toNat + arenaFreq ns h.toNat

/-- The invariant of NODE, NODE_CNT and INQ (R15, R16, R17): a tree, NODE_CNT its size, and the root the one queue member. -/
def State.treeOk (s : State) : Prop :=
  s.nodeCnt.toNat = s.node.length ∧ (∃ k, TreeShape k s.node) ∧
    s.inq = if s.node = [] then [] else [s.node.length - 1]

/-- The invariant of CODE: `1 ≤ len ≤ 255` and `val < 2^len` whenever valid (R18). -/
def State.codesOk (s : State) : Prop :=
  ∀ b c, atSym s.code b = some c → 1 ≤ c.len.toNat ∧ c.val.toNat < 2 ^ c.len.toNat

/-- The node a path from `m` leads to: 0 steps to `low`, 1 to `high` (R78). `none`: the path goes on past a leaf. -/
def descend (nodeAt : Nat → Node) : Nat → List Bool → Option Nat
  | m, [] => some m
  | m, b :: bs =>
    match nodeAt m with
    | .leaf .. => none
    | .internal _ low high => descend nodeAt (if b then high else low).toNat bs

/-- No valid code is a prefix of another symbol's (R78, R144 (c)). -/
def prefixFree (codes : Vector (Option Code) 256) : Prop :=
  ∀ a b ca cb, a ≠ b → atSym codes a = some ca → atSym codes b = some cb → ¬ ca.bits <+: cb.bits

/-! ## What the units compute, in the spec's words -/

/-- `MemRead(DST, a, n)` (R8). -/
def State.dstNat (s : State) (a n : Nat) : Nat := beNat ((List.range n).map fun j => s.dstByte (a + j))

/-- The code of symbol `b` as a bit string; no bit where it has none (R78). -/
def State.codeBits (s : State) (b : Byte) : List Bool := ((atSym s.code b).map Code.bits).getD []

/-- Symbol `b` has a code: `CODE[b].valid = 1` (R18). -/
def State.hasCode (s : State) (b : Byte) : Bool := (atSym s.code b).isSome

/-- The number of bits of the codes of `SRC[0..i)` (R159 (a)). -/
def State.bitsBefore (s : State) (i : Nat) : Nat := ((s.srcSlice 0 i).map fun b => (s.codeBits b).length).sum

/-- `bits` is the code of `b` in the tree NODE: "0" for a single leaf (R142, R171), else the path from the root to the leaf
of `b` (R78, R170). -/
def State.treeCode (s : State) (b : Byte) (bits : List Bool) : Prop :=
  if s.nodeCnt = 1 then bits = [false] ∧ (s.nodeAt 0).sym = b
  else ∃ m f, descend s.nodeAt s.root.toNat bits = some m ∧ s.nodeAt m = .leaf b f

/-- The state whose NODE, INQ and NODE_CNT are the tree of a frequency table (R120, R127 (k)). -/
def treeState (f : Vector Word 256) : State :=
  { State.reset with
    node := (buildTree f).nodes
    inq := (buildTree f).inq
    nodeCnt := BitVec.ofNat 9 (buildTree f).nodes.length }

/-- SRC holds, in `SRC[0..SRC_LEN)`, a container (R70) with the table `f` and the stream bits `bits`; the pad bits of its
last byte may hold anything (R75). -/
def State.holdsContainer (s : State) (f : Vector Word 256) (bits : List Bool) : Prop :=
  let h := 6 + 5 * (presentSymbols f).length
  s.srcLen.toNat = h + ceil8 bits.length ∧ s.srcSlice 0 h = headerBytes f bits.length ∧
    ∀ j, (hj : j < bits.length) → (s.srcByte (h + j / 8)).getLsbD (7 - j % 8) = bits[j]

/-- `Σ_s FREQ[s] · w(s)`: the bits an assignment of `w(s)` bits to symbol s takes (R127 (h), R144 (e)). -/
def weightedBits (f : Vector Word 256) (w : Byte → Nat) : Nat :=
  (symbols.map fun b => (atSym f b).toNat * w b).sum

/-! ## The host -/

/-- The host's next operation respects R236; where it does not, the step refuses it. -/
def State.followsBusyRule (s : State) : Bool :=
  match s.host with
  | [] => true
  | op :: _ => !s.unseen || allowedUnseen op

/-! ## Safe steps -/

/-- A step that does not stop with a fault. -/
def noFault : Host.Outcome State Fault Refusal → Bool
  | .next _ => true
  | .fault _ => false
  | .refused _ => true

end Sys2Proof.Machine
end

