-- ==== Sys2Proof/Certificates/Slice0/Obligations.lean ====
section
/-! DEFINITION. The statements for the provers. Each docstring names the rules of spec/ it comes from. Where a statement
speaks of `cmdEra`, `resetEra`, `flight`, `unseen`, `host` or `replies`, it speaks of the model's own fields (log 1, 2, 4,
14), which no rule of the spec names. -/

open Sys2Proof Sys2Proof.Machine

/-! ## Encoding and dispatch -/

/-- R62: the twelve words of the opcode map, written out. -/
def Obligations.CommandWordsDecode : Prop :=
  decode 0x00000000#32 = .instr .nop ∧ decode 0x00000001#32 = .instr .count ∧
  decode 0x00000002#32 = .instr .build ∧ decode 0x00000003#32 = .instr .walk ∧
  decode 0x00000004#32 = .instr .pack ∧ decode 0x00000005#32 = .instr .frame ∧
  decode 0x00000006#32 = .instr .parse ∧ decode 0x00000007#32 = .instr .unpack ∧
  decode 0x00000008#32 = .instr .compress ∧ decode 0x00000009#32 = .instr .decompress ∧
  decode 0x0000000A#32 = .instr .clrst ∧ decode 0x0000000F#32 = .instr .srst

/-- R60, R62: a word is a command iff it is exactly the command's word, all 32 bits of it. -/
def Obligations.WordIsCommandIffEncoded : Prop :=
  ∀ (w : Word) (i : Instr), decode w = .instr i ↔ w = encode i

/-- R63, R95: a word with `rsv` ≠ 0 or an opcode 0xB..0xE, and no other, is illegal; it latches IllegalCommand when the
core would accept a command, and is ignored otherwise. -/
def Obligations.IllegalWordLatchesIllegalCommand : Prop :=
  ∀ (w : Word) (s : State),
    ((∀ i, decode w ≠ .instr i) ↔ (w.toNat / 16 ≠ 0 ∨ (0xB ≤ w.toNat % 16 ∧ w.toNat % 16 ≤ 0xE))) ∧
    ((∀ i, decode w ≠ .instr i) →
      (s.ready = true →
        writeCmd w s = .next { s with status := Status.failed .illegalCommand .idle, errInfo := w }) ∧
      (s.ready = false → writeCmd w s = .next s))

/-- A step performs the host's next operation (R41, R42, R47 (a), R230): a read or write inside the interface that R236 allows
is `hostRead` or `hostWrite` once time has passed, and a write of CMD goes to the decoder (R90). And the step runs the decoded
command: the host's next operation is a write of a command word to CMD, which R236 allows.
`tick` lets time pass before the transaction and changes nothing outside a BUSY window. `launch` leaves what `exec` gave,
but for an accepted working command, whose step leaves BUSY = 1, DONE = 0, ERR = 0, ERR_INFO = 0 and PHASE at the command's
first phase (R22, R92, R98, R100, R101), and keeps the STATUS and ERR_INFO of its completion for later (log 1). The row's
word is run by the very next step (log 15). -/
def Obligations.StepRunsTheDecodedCommand : Prop :=
  (∀ (s : State) (off : Nat) (rest : List HostOp), s.host = .read off :: rest → off % 4 = 0 → off ≤ 0xFC →
    s.unseen = false ∨ off = 0x00 ∨ off = 0x08 → step s = .next (hostRead off (tick { s with host := rest }))) ∧
  (∀ (s : State) (off : Nat) (d : Word) (rest : List HostOp), s.host = .write off d :: rest → off % 4 = 0 → off ≤ 0xFC →
    s.unseen = false ∨ (off = 0x04 ∧ d = 0x0000000F#32) → step s = hostWrite off d (tick { s with host := rest })) ∧
  (∀ (s : State) (d : Word), hostWrite 0x04 d s = writeCmd d s) ∧
  (∀ (s : State) (rest : List HostOp), s.host = .hardReset :: rest → step s = hostStep .hardReset { s with host := rest }) ∧
  (∀ (s : State) (rest : List HostOp), s.host = .waitIrq :: rest →
    ((tick { s with host := rest }).irq = true → step s = .next (tick { s with host := rest })) ∧
    ((tick { s with host := rest }).irq = false →
      step s = .next { tick { s with host := rest } with host := .waitIrq :: rest })) ∧
  (∀ s : State, s.host = [] → step s = .next (tick s)) ∧
  (∀ (s : State) (w : Word) (i : Instr) (rest : List HostOp), s.host = .write 0x04 w :: rest → decode w = .instr i →
    s.unseen = false ∨ i = .srst →
    step s =
      match exec i (tick { s with host := rest }) with
      | .next t => .next (launch i (tick { s with host := rest }) t)
      | .fault f => .fault f
      | .refused r => .refused r) ∧
  (∀ s : State, s.flight = none → tick s = s) ∧
  (∀ (i : Instr) (s t : State), i ∈ [Instr.nop, .clrst, .srst] ∨ s.ready = false → launch i s t = t) ∧
  (∀ ip ∈ [(Instr.count, Phase.count), (.build, .build), (.walk, .walk), (.pack, .pack), (.frame, .frame), (.parse, .parse),
      (.unpack, .unpack), (.compress, .count), (.decompress, .parse)],
    ∀ s t : State, s.ready = true → ∃ f : Flight, f.final = t.status ∧ f.info = t.errInfo ∧
      launch ip.1 s t =
        { t with
          status := { busy := true, done := false, err := .noError, phase := ip.2, ephase := .idle }
          errInfo := 0
          flight := some f
          unseen := true }) ∧
  (∀ (s : State) (nbits w : Nat) (i : Instr), s.flight = none → decodeTableWord nbits w = some i →
    step (s.withFetchWord nbits w) =
      match exec i { s with unseen := false } with
      | .next t => .next (launch i { s with unseen := false } t)
      | .fault f => .fault f
      | .refused r => .refused r)

/-- R91: a word written to CMD is ignored while BUSY = 1 unless it is SRST, and while ERR ≠ 0 unless it is CLRST or SRST;
ignored means that no state changes. -/
def Obligations.IgnoredCommandsChangeNothing : Prop :=
  ∀ (w : Word) (s : State),
    (s.status.busy = true → w ≠ 0x0000000F#32 → writeCmd w s = .next s) ∧
    (s.status.err ≠ .noError → w ≠ 0x0000000A#32 → w ≠ 0x0000000F#32 → writeCmd w s = .next s)

/-! ## System commands and reset -/

/-- R94, R96: NOP takes state S to state S, in every state; CLRST clears DONE, ERR, EPHASE and ERR_INFO and nothing else, and
is ignored while BUSY = 1. -/
def Obligations.NopAndClrstEffects : Prop :=
  ∀ s : State,
    exec .nop s = .next s ∧
    (s.status.busy = false →
      exec .clrst s =
        .next { s with
          status := { s.status with done := false, err := .noError, ephase := .idle }
          errInfo := 0 }) ∧
    (s.status.busy = true → exec .clrst s = .next s)

/-- R97, R230, R231: SRST, in every state, puts every piece of state into its reset value, exactly as the hard reset does.
The unspecified bytes and entries are free values of the new era; the host's own queue and replies are not the core's
(log 13). -/
def Obligations.SrstResetsTheCore : Prop :=
  ∀ s : State, ∃ t, exec .srst s = .next t ∧ hostStep .hardReset s = .next t ∧
    t.status = ⟨false, false, .noError, .idle, .idle⟩ ∧ t.errInfo = 0 ∧ t.intEn = 0 ∧
    t.srcLen = 0 ∧ t.dstLen = 0 ∧ t.bitLen = 0 ∧ t.nodeCnt = 0 ∧
    t.srcPtr = 0 ∧ t.dstPtr = 0 ∧ t.tblSel = 0 ∧ t.tblIdx = 0 ∧
    (∀ b, atSym t.freq b = 0) ∧ t.inq = [] ∧ (∀ b, atSym t.code b = none) ∧
    t.hidden = ⟨0, 0, 0, 0, 0, 0, 0, [], 0, 0, 0⟩ ∧
    (∀ a, t.srcByte a = Config.powerOnByte (s.resetEra + 1) .src a) ∧
    (∀ a, t.dstByte a = Config.powerOnByte (s.resetEra + 1) .dst a) ∧
    (∀ a, t.payByte a = Config.powerOnByte (s.resetEra + 1) .pay a) ∧
    (∀ m, t.nodeAt m = Config.freeNode (s.cmdEra + 1) m) ∧
    t.flight = none ∧ t.unseen = false ∧ t.cfg = s.cfg ∧ t.host = s.host ∧ t.replies = s.replies

/-- R231: the reset state. The rows R231 calls unspecified hold free values; the last line is the model's own (log 10, 14),
and no rule's. -/
def Obligations.ResetStateHoldsTheSpecValues : Prop :=
  State.reset.status.word = 0 ∧ State.reset.errInfo = 0 ∧ State.reset.intEn = 0 ∧ State.reset.irq = false ∧
  State.reset.srcLen = 0 ∧ State.reset.dstLen = 0 ∧ State.reset.bitLen = 0 ∧ State.reset.nodeCnt = 0 ∧
  State.reset.srcPtr = 0 ∧ State.reset.dstPtr = 0 ∧ State.reset.tblSel = 0 ∧ State.reset.tblIdx = 0 ∧
  (∀ b, atSym State.reset.freq b = 0) ∧ State.reset.kView = 0 ∧ State.reset.inq = [] ∧
  (∀ b, atSym State.reset.code b = none) ∧ State.reset.hidden = ⟨0, 0, 0, 0, 0, 0, 0, [], 0, 0, 0⟩ ∧
  State.reset.regValue .id = 0x48554631#32 ∧
  (∀ era, ∀ a, { State.reset with resetEra := era }.srcByte a = Config.powerOnByte era .src a ∧
    { State.reset with resetEra := era }.dstByte a = Config.powerOnByte era .dst a ∧
    { State.reset with resetEra := era }.payByte a = Config.powerOnByte era .pay a) ∧
  (∀ era m, { State.reset with cmdEra := era }.nodeAt m = Config.freeNode era m) ∧
  State.reset.cfg.nMax = 65536 ∧ State.reset.bufBytes = 66822

/-! ## COUNT -/

/-- R111, R112 with R92, R93: after COUNT every FREQ entry is the number of times its symbol occurs in SRC[0..SRC_LEN); the
counts sum to SRC_LEN, an entry is nonzero iff its symbol occurs, K is the number of distinct byte values, and STATUS is DONE
without error. -/
def Obligations.CountFillsTheTable : Prop :=
  ∀ s : State, s.statusOk = true → s.ready = true → s.srcLen.toNat ≤ s.cfg.nMax →
    ∃ t, exec .count s = .next t ∧ (∀ b, (atSym t.freq b).toNat = s.srcBytes.count b) ∧
      freqTotal t.freq = s.srcLen.toNat ∧ (∀ b, 1 ≤ (atSym t.freq b).toNat ↔ b ∈ s.srcBytes) ∧
      t.kView = s.srcBytes.toFinset.card ∧ t.status = Status.finished ∧ t.errInfo = 0

/-- R110, R158 (a), R182, R205, with R92 and R100: the checks that precede every write. COUNT, COMPRESS and PACK raise
CapacityError(N_MAX) on SRC_LEN > N_MAX, FRAME raises CapacityError(BUF_BYTES) on a container that does not fit DST; PACK's
BITLEN and the DST_LEN of COMPRESS and FRAME are 0, and nothing else changes but STATUS and ERR_INFO. The hidden registers
are left at any value (U6, log 9), and the model's own counter at some value (log 14). -/
def Obligations.CapacityChecksPrecedeEveryWrite : Prop :=
  ∀ s : State, s.ready = true →
    (s.srcLen.toNat > s.cfg.nMax → ∃ (hid : Hidden) (era : Nat),
      exec .count s =
        .next { s with
          status := ⟨false, true, .capacity, .idle, .count⟩
          errInfo := BitVec.ofNat 32 s.cfg.nMax
          hidden := hid
          cmdEra := era }) ∧
    (s.srcLen.toNat > s.cfg.nMax → ∃ (hid : Hidden) (era : Nat),
      exec .compress s =
        .next { s with
          dstLen := 0
          status := ⟨false, true, .capacity, .idle, .count⟩
          errInfo := BitVec.ofNat 32 s.cfg.nMax
          hidden := hid
          cmdEra := era }) ∧
    (s.srcLen.toNat > s.cfg.nMax → ∃ (hid : Hidden) (era : Nat),
      exec .pack s =
        .next { s with
          bitLen := 0
          status := ⟨false, true, .capacity, .idle, .pack⟩
          errInfo := BitVec.ofNat 32 s.cfg.nMax
          hidden := hid
          cmdEra := era }) ∧
    (6 + 5 * s.kView + ceil8 s.bitLen.toNat > s.bufBytes → ∃ (hid : Hidden) (era : Nat),
      exec .frame s =
        .next { s with
          dstLen := 0
          status := ⟨false, true, .capacity, .idle, .frame⟩
          errInfo := BitVec.ofNat 32 s.bufBytes
          hidden := hid
          cmdEra := era })

/-- The frame of COUNT, BUILD and WALK (R46, R111, R120, R141): each changes its own table, STATUS (COUNT also ERR_INFO, on
an error), the hidden registers, which hold any value after it (U6), the model's counter (log 14) and nothing else; no byte of
any memory changes. BUILD and WALK leave ERR, EPHASE and ERR_INFO alone. -/
def Obligations.TableCommandsFrame : Prop :=
  (∀ s t : State, exec .count s = .next t →
    t = { s with
      freq := t.freq, hidden := t.hidden
      status := t.status, errInfo := t.errInfo, cmdEra := t.cmdEra }) ∧
  (∀ s t : State, exec .build s = .next t →
    t = { s with
      node := t.node, inq := t.inq, nodeCnt := t.nodeCnt, hidden := t.hidden, status := t.status, cmdEra := t.cmdEra } ∧
    t.status.err = s.status.err ∧ t.status.ephase = s.status.ephase) ∧
  (∀ s t : State, exec .walk s = .next t →
    t = { s with
      code := t.code, hidden := t.hidden, status := t.status, cmdEra := t.cmdEra } ∧
    t.status.err = s.status.err ∧ t.status.ephase = s.status.ephase) ∧
  (∀ (i : Instr) (s t : State), i = .count ∨ i = .build ∨ i = .walk → exec i s = .next t →
    ∀ a, t.srcByte a = s.srcByte a ∧ t.dstByte a = s.dstByte a ∧ t.payByte a = s.payByte a)

/-! ## BUILD -/

/-- R16, R120, R121, R125: BUILD, from every table FREQ, makes the tree: the leaves of the present symbols in ascending
order, 2k − 1 nodes (none for k = 0), the tree invariants, the root its last node and the one queue member, with the sum of
all frequencies. -/
def Obligations.BuildMakesTheTree : Prop :=
  ∀ s : State, s.statusOk = true → s.ready = true →
    ∃ t, exec .build s = .next t ∧ t.status = Status.finished ∧ t.errInfo = 0 ∧
      TreeShape s.kView t.node ∧ t.treeOk ∧
      t.node.take s.kView = (presentSymbols s.freq).map (fun b => Node.leaf b (atSym s.freq b)) ∧
      t.nodeCnt.toNat = (if s.kView = 0 then 0 else 2 * s.kView - 1) ∧
      (s.kView ≥ 1 → t.inq = [t.nodeCnt.toNat - 1] ∧
        (freqTotal s.freq < 2 ^ 32 → (t.nodeAt (t.nodeCnt.toNat - 1)).freq.toNat = freqTotal s.freq))

/-- R122: PQ_MIN returns the one member with the smallest key `(freq, index)`, compared lexicographically and unsigned. -/
def Obligations.ArbiterPicksTheSmallestKey : Prop :=
  ∀ (nodes : List Node) (q : List Nat), q ≠ [] →
    ∀ i, (i ∈ q ∧ ∀ j ∈ q, j ≠ i →
        ((arenaFreq nodes i).toNat < (arenaFreq nodes j).toNat ∨
          (arenaFreq nodes i = arenaFreq nodes j ∧ i < j))) ↔
      i = pqMin nodes q

/-- R120, R122, R123, R124: one iteration of the merge loop takes the two smallest members a and b off the queue, a before b
and b before every other member in key order (frequency, then index), and appends the internal node over them, with the sum of their frequencies, which enters the queue; the children's
indices are smaller than their parent's. -/
def Obligations.MergeJoinsTheTwoSmallest : Prop :=
  ∀ b : Builder, 2 ≤ b.inq.length → b.inq.Nodup → (∀ i ∈ b.inq, i < b.nodes.length) → b.nodes.length ≤ 510 →
    ∃ x y, x ∈ b.inq ∧ y ∈ b.inq ∧ x ≠ y ∧ x < b.nodes.length ∧ y < b.nodes.length ∧
      ((arenaFreq b.nodes x).toNat < (arenaFreq b.nodes y).toNat ∨ (arenaFreq b.nodes x = arenaFreq b.nodes y ∧ x < y)) ∧
      (∀ z ∈ b.inq, z ≠ x → z ≠ y →
        ((arenaFreq b.nodes y).toNat < (arenaFreq b.nodes z).toNat ∨
          (arenaFreq b.nodes y = arenaFreq b.nodes z ∧ y < z))) ∧
      ∃ l h : BitVec 9, l.toNat = x ∧ h.toNat = y ∧
        (mergeStep b).nodes = b.nodes ++ [.internal (arenaFreq b.nodes x + arenaFreq b.nodes y) l h] ∧
        (∀ z, z ∈ (mergeStep b).inq ↔ (z ∈ b.inq ∧ z ≠ x ∧ z ≠ y) ∨ z = b.nodes.length) ∧
        (mergeStep b).inq.length + 1 = b.inq.length

/-- R126: the edge cases k = 0, 1, 2 and 256. -/
def Obligations.BuildEdgeCases : Prop :=
  ∀ s t : State, s.ready = true → exec .build s = .next t →
    (s.kView = 0 → t.node = [] ∧ t.nodeCnt = 0 ∧ t.inq = []) ∧
    (∀ a, presentSymbols s.freq = [a] → t.node = [.leaf a (atSym s.freq a)] ∧ t.nodeCnt = 1 ∧ t.inq = [0]) ∧
    (∀ a b, presentSymbols s.freq = [a, b] →
      t.node = [.leaf a (atSym s.freq a), .leaf b (atSym s.freq b),
        (if (atSym s.freq b).toNat < (atSym s.freq a).toNat
          then .internal (atSym s.freq a + atSym s.freq b) 1 0
          else .internal (atSym s.freq a + atSym s.freq b) 0 1)] ∧
      t.nodeCnt = 3 ∧ t.inq = [2]) ∧
    (s.kView = 256 → t.nodeCnt = 511)

/-! ## WALK -/

/-- R141, R144 (a), (b): over a tree WALK completes; a symbol has a code iff it is a leaf's, and with three nodes or more the
code is the path from the root to its leaf. -/
def Obligations.WalkWritesThePaths : Prop :=
  ∀ s : State, s.statusOk = true → s.ready = true → s.treeOk →
    ∃ t, exec .walk s = .next t ∧ t.status = Status.finished ∧ t.errInfo = 0 ∧
      (∀ b, t.hasCode b = true ↔ b ∈ leafSymbols s.node) ∧
      (3 ≤ s.nodeCnt.toNat → ∀ b c, atSym t.code b = some c →
        ∃ m f, descend s.nodeAt (s.nodeCnt.toNat - 1) c.bits = some m ∧ s.nodeAt m = .leaf b f)

/-- R142, R143: no node, no valid code; a single leaf, the one code "0". -/
def Obligations.WalkOfNoneOrOneLeaf : Prop :=
  ∀ s : State, s.ready = true →
    (s.nodeCnt = 0 → ∃ t, exec .walk s = .next t ∧ ∀ b, t.hasCode b = false) ∧
    (∀ a f, s.nodeCnt = 1 → s.node = [.leaf a f] →
      ∃ t, exec .walk s = .next t ∧ atSym t.code a = some ⟨1, 0⟩ ∧ t.codeBits a = [false] ∧
        ∀ b, b ≠ a → t.hasCode b = false)

/-- R144 (c), R78: the codes of a walked tree are prefix-free. -/
def Obligations.WalkedCodesArePrefixFree : Prop :=
  ∀ s t : State, s.ready = true → s.treeOk → exec .walk s = .next t → prefixFree t.code

/-- R144 (f): the Kraft sum of a walked tree, times 2^255: 2^255 for k ≥ 2, half of it for k = 1. -/
def Obligations.WalkedCodesFillTheKraftSum : Prop :=
  ∀ s t : State, s.ready = true → s.treeOk → exec .walk s = .next t →
    ((symbols.filter t.hasCode).map fun b => 2 ^ (255 - (t.codeBits b).length)).sum =
      if s.nodeCnt = 0 then 0 else if s.nodeCnt = 1 then 2 ^ 254 else 2 ^ 255

/-- R127 (i), R144 (d): a more frequent symbol never has a longer code. -/
def Obligations.FrequentSymbolsHaveShortCodes : Prop :=
  ∀ s t u : State, s.ready = true → s.freqOk → exec .build s = .next t → exec .walk { t with status := s.status } = .next u →
    ∀ a b, (atSym s.freq b).toNat < (atSym s.freq a).toNat → 0 < (atSym s.freq b).toNat →
      (u.codeBits a).length ≤ (u.codeBits b).length

/-- R127 (h), R144 (e): for k ≥ 2 the walked codes take the fewest bits of all prefix-free assignments; for k = 1 as many
bits as there are symbols. -/
def Obligations.WalkedCodesAreOptimal : Prop :=
  ∀ s t u : State, s.ready = true → s.freqOk → exec .build s = .next t → exec .walk { t with status := s.status } = .next u →
    (2 ≤ s.kView → ∀ w : Byte → List Bool,
      (∀ a b, atSym s.freq a ≠ 0 → atSym s.freq b ≠ 0 → a ≠ b → ¬ w a <+: w b) →
      weightedBits s.freq (fun b => (u.codeBits b).length) ≤ weightedBits s.freq (fun b => (w b).length)) ∧
    (s.kView = 1 → weightedBits s.freq (fun b => (u.codeBits b).length) = freqTotal s.freq)

/-! ## PACK -/

/-- R151, R159 (a) to (d): with every byte coded and the payload within PAY, PACK completes; BITLEN is the sum of the code
lengths, the stream bits are the concatenated codes of SRC[0..SRC_LEN), the pad bits are 0, ceil8(BITLEN) bytes are
written. -/
def Obligations.PackConcatenatesTheCodes : Prop :=
  ∀ s : State, s.statusOk = true → s.ready = true → s.srcLen.toNat ≤ s.cfg.nMax →
    (∀ b ∈ s.srcBytes, s.hasCode b = true) → ceil8 (s.bitsBefore s.srcLen.toNat) ≤ s.bufBytes →
    ∃ t, exec .pack s = .next t ∧ t.status = Status.finished ∧ t.errInfo = 0 ∧
      t.bitLen.toNat = s.bitsBefore s.srcLen.toNat ∧ t.payBits = s.srcBytes.flatMap s.codeBits ∧
      (∀ j, t.bitLen.toNat ≤ j → j < 8 * ceil8 t.bitLen.toNat → t.payBit j = false) ∧
      (∀ i < ceil8 t.bitLen.toNat, (Memory.lookup t.pay i).isSome = true)

/-- R153, R157: the first byte without a code raises ConfigurationError with its offset, and BITLEN is 0. -/
def Obligations.PackStopsAtAnUncodedByte : Prop :=
  ∀ (s : State) (i : Nat), s.ready = true → s.srcLen.toNat ≤ s.cfg.nMax → i < s.srcLen.toNat →
    (∀ j < i, s.hasCode (s.srcByte j) = true) → s.hasCode (s.srcByte i) = false → s.bitsBefore i / 8 ≤ s.bufBytes →
    ∃ t, exec .pack s = .next t ∧ t.status = Status.failed .configuration .pack ∧ t.errInfo = BitVec.ofNat 32 i ∧
      t.bitLen = 0

/-- R157, R158 (b): a payload longer than PAY raises CapacityError with the offset of the symbol being packed, or SRC_LEN at
the final partial byte; BITLEN is 0. -/
def Obligations.PackStopsAtAFullPayload : Prop :=
  ∀ s : State, s.ready = true → s.srcLen.toNat ≤ s.cfg.nMax →
    (∀ i, i < s.srcLen.toNat → (∀ j ≤ i, s.hasCode (s.srcByte j) = true) →
      s.bitsBefore i / 8 ≤ s.bufBytes → s.bufBytes < s.bitsBefore (i + 1) / 8 →
      ∃ t, exec .pack s = .next t ∧ t.status = Status.failed .capacity .pack ∧ t.errInfo = BitVec.ofNat 32 i ∧
        t.bitLen = 0) ∧
    ((∀ b ∈ s.srcBytes, s.hasCode b = true) →
      s.bitsBefore s.srcLen.toNat / 8 = s.bufBytes → s.bitsBefore s.srcLen.toNat % 8 ≠ 0 →
      ∃ t, exec .pack s = .next t ∧ t.status = Status.failed .capacity .pack ∧ t.errInfo = s.srcLen ∧ t.bitLen = 0)

/-- The frame of PACK and PARSE, the commands that store to PAY (R46, R151, R157, R186, R190): PACK stores to
PAY[0..PK_P), which is within PAY and within the bytes of the codes of SRC[0..SRC_LEN), PARSE to PAY[0..ceil8(BITLEN)); no
other byte of any memory, and no register or table but those named, changes. `packStored s` is the PK_P that R151's loop ends
with, on an error too. After the command the hidden registers hold any value (U6). -/
def Obligations.PayloadCommandsFrame : Prop :=
  (∀ s t : State, exec .pack s = .next t →
    t = { s with
      pay := t.pay, bitLen := t.bitLen
      hidden := t.hidden
      status := t.status, errInfo := t.errInfo, cmdEra := t.cmdEra } ∧
    (∀ a, packStored s ≤ a → t.payByte a = s.payByte a) ∧
    (∀ a, min s.bufBytes (ceil8 (s.bitsBefore s.srcLen.toNat)) ≤ a → t.payByte a = s.payByte a)) ∧
  (∀ s t : State, exec .parse s = .next t →
    t = { s with
      freq := t.freq, pay := t.pay, bitLen := t.bitLen
      hidden := t.hidden
      status := t.status, errInfo := t.errInfo, cmdEra := t.cmdEra } ∧
    (∀ a, ceil8 t.bitLen.toNat ≤ a → t.payByte a = s.payByte a)) ∧
  (∀ (i : Instr) (s t : State), i = .pack ∨ i = .parse → exec i s = .next t →
    ∀ a, t.srcByte a = s.srcByte a ∧ t.dstByte a = s.dstByte a)

/-! ## FRAME and PARSE -/

/-- R70, R181, R183: FRAME writes the container of R70: k, the present symbols in ascending order with their frequencies, the
bit-length, the payload; DST_LEN is its length. -/
def Obligations.FrameWritesTheContainer : Prop :=
  ∀ s : State, s.statusOk = true → s.ready = true → 6 + 5 * s.kView + ceil8 s.bitLen.toNat ≤ s.bufBytes →
    ∃ t, exec .frame s = .next t ∧ t.status = Status.finished ∧ t.errInfo = 0 ∧
      t.dstLen.toNat = 6 + 5 * s.kView + ceil8 s.bitLen.toNat ∧ t.dstNat 0 2 = s.kView ∧
      (∀ i b, (presentSymbols s.freq)[i]? = some b →
        t.dstByte (2 + 5 * i) = b ∧ t.dstNat (3 + 5 * i) 4 = (atSym s.freq b).toNat) ∧
      t.dstNat (2 + 5 * s.kView) 4 = s.bitLen.toNat ∧
      (∀ j < ceil8 s.bitLen.toNat, t.dstByte (6 + 5 * s.kView + j) = s.payByte j)

/-- R186, R188: a container that passes all the checks is loaded: FREQ from the entries, in any order, 0 elsewhere, BITLEN =
B, PAY the payload. -/
def Obligations.ParseLoadsTheContainer : Prop :=
  ∀ (s : State) (k b : Nat), s.statusOk = true → s.ready = true → s.srcLen.toNat ≤ s.bufBytes → 2 ≤ s.srcLen.toNat →
    k = s.srcRead 0 2 → k ≤ 256 → b = s.srcRead (2 + 5 * k) 4 → s.srcLen.toNat = 6 + 5 * k + ceil8 b →
    (∀ i < k, s.srcRead (3 + 5 * i) 4 ≠ 0) →
    (∀ i < k, ∀ j < i, s.srcByte (2 + 5 * i) ≠ s.srcByte (2 + 5 * j)) → (k = 0 → b = 0) →
    ((List.range k).map fun i => s.srcRead (3 + 5 * i) 4).sum ≤ s.cfg.nMax →
    ∃ t, exec .parse s = .next t ∧ t.status = Status.finished ∧ t.errInfo = 0 ∧ t.bitLen.toNat = b ∧ t.kView = k ∧
      (∀ i < k, (atSym t.freq (s.srcByte (2 + 5 * i))).toNat = s.srcRead (3 + 5 * i) 4) ∧
      (∀ x, (∀ i < k, s.srcByte (2 + 5 * i) ≠ x) → atSym t.freq x = 0) ∧
      (∀ j < ceil8 b, t.payByte j = s.srcByte (6 + 5 * k + j))

/-- R188, R190, R205: the eight checks in their order, each with its error and its `info`; on every error FREQ and BITLEN are
cleared and nothing else changes but STATUS and ERR_INFO. The hidden registers are left at any value (U6, log 9), and the
model's own counter at some value (log 14). -/
def Obligations.ParseReportsTheFirstError : Prop :=
  ∀ s : State, s.ready = true →
    let l := s.srcLen.toNat
    let k := s.srcRead 0 2
    let h := 6 + 5 * k
    let b := s.srcRead (h - 4) 4
    let freq := fun i => s.srcRead (3 + 5 * i) 4
    let sym := fun i => s.srcByte (2 + 5 * i)
    let entryOk := fun i => freq i ≠ 0 ∧ ∀ j < i, sym i ≠ sym j
    let fails := fun (e : ErrCode) (info : Nat) => ∃ (hid : Hidden) (era : Nat),
      exec .parse s =
        .next { s with
          freq := Vector.replicate 256 0
          bitLen := 0
          status := ⟨false, true, e, .idle, .parse⟩
          errInfo := BitVec.ofNat 32 info
          hidden := hid
          cmdEra := era }
    (l > s.bufBytes → fails .capacity s.bufBytes) ∧
    (l ≤ s.bufBytes → l < 2 → fails .malformedTable l) ∧
    (l ≤ s.bufBytes → 2 ≤ l → 256 < k → fails .malformedTable 0) ∧
    (l ≤ s.bufBytes → 2 ≤ l → k ≤ 256 → l < h → fails .malformedTable l) ∧
    (∀ i, l ≤ s.bufBytes → k ≤ 256 → h ≤ l → i < k → (∀ j < i, entryOk j) → ¬ entryOk i →
      fails .malformedTable (2 + 5 * i)) ∧
    (l ≤ s.bufBytes → h ≤ l → k = 0 → b ≠ 0 → fails .malformedTable 2) ∧
    (l ≤ s.bufBytes → k ≤ 256 → h ≤ l → (∀ i < k, entryOk i) → (k = 0 → b = 0) →
      ((List.range k).map freq).sum > s.cfg.nMax → fails .capacity 2) ∧
    (l ≤ s.bufBytes → k ≤ 256 → h ≤ l → (∀ i < k, entryOk i) → (k = 0 → b = 0) →
      ((List.range k).map freq).sum ≤ s.cfg.nMax → l ≠ h + ceil8 b →
      fails .corruptContainer (min l (h + ceil8 b)))

/-- R192 (a): PARSE of a container FRAME wrote restores exactly FREQ, BITLEN and the valid payload. -/
def Obligations.ParseAfterFrameRestores : Prop :=
  ∀ s t u : State, s.ready = true → s.freqOk → (1 ≤ s.kView ∨ s.bitLen = 0) → exec .frame s = .next t →
    t.status.err = .noError → u.statusOk = true → u.ready = true → u.cfg = s.cfg → u.srcLen = t.dstLen →
    (∀ i < t.dstLen.toNat, u.srcByte i = t.dstByte i) →
    ∃ v, exec .parse u = .next v ∧ v.status = Status.finished ∧ v.freq = s.freq ∧ v.bitLen = s.bitLen ∧
      ∀ j < ceil8 s.bitLen.toNat, v.payByte j = s.payByte j

/-! ## UNPACK -/

/-- R168: no bits, the empty output with no error, for every tree; bits but no tree, CorruptContainerError(0). -/
def Obligations.UnpackOfNothing : Prop :=
  ∀ s : State, s.statusOk = true → s.ready = true →
    (s.bitLen = 0 → ∃ t, exec .unpack s = .next t ∧ t.status = Status.finished ∧ t.dstLen = 0 ∧ t.dst = s.dst) ∧
    (s.bitLen ≠ 0 → s.nodeCnt = 0 →
      ∃ t, exec .unpack s = .next t ∧ t.status = Status.failed .corruptContainer .unpack ∧ t.errInfo = 0 ∧
        t.dstLen = 0 ∧ t.dst = s.dst)

/-- R167, R170, R175 (d): stream bits that are a concatenation of at most N_MAX codes of the tree decode to their symbols. -/
def Obligations.UnpackDecodesAConcatenation : Prop :=
  ∀ (s : State) (ps : List (Byte × List Bool)), s.statusOk = true → s.ready = true → s.treeOk → s.nodeCnt ≠ 0 →
    (∀ p ∈ ps, s.treeCode p.1 p.2) → s.payBits = ps.flatMap (fun p => p.2) → ps.length ≤ s.cfg.nMax →
    ∃ t, exec .unpack s = .next t ∧ t.status = Status.finished ∧ t.errInfo = 0 ∧ t.dstLen.toNat = ps.length ∧
      ∀ i p, ps[i]? = some p → t.dstByte i = p.1

/-- R170, R171, R172: stream bits that end inside a code raise CorruptContainerError(BITLEN); a 1 bit over a single leaf
raises it with the index of the bit; DST_LEN is 0. -/
def Obligations.UnpackRejectsABrokenStream : Prop :=
  ∀ s : State, s.ready = true → s.treeOk →
    (∀ (ps : List (Byte × List Bool)) (tail : List Bool), 3 ≤ s.nodeCnt.toNat → (∀ p ∈ ps, s.treeCode p.1 p.2) →
      s.payBits = ps.flatMap (fun p => p.2) ++ tail → ps.length ≤ s.cfg.nMax → tail ≠ [] →
      (∃ m, descend s.nodeAt s.root.toNat tail = some m ∧ (s.nodeAt m).isInternal = true) →
      ∃ t, exec .unpack s = .next t ∧ t.status = Status.failed .corruptContainer .unpack ∧ t.errInfo = s.bitLen ∧
        t.dstLen = 0) ∧
    (∀ j, s.nodeCnt = 1 → j < s.bitLen.toNat → j ≤ s.cfg.nMax → (∀ i < j, s.payBit i = false) → s.payBit j = true →
      ∃ t, exec .unpack s = .next t ∧ t.status = Status.failed .corruptContainer .unpack ∧
        t.errInfo = BitVec.ofNat 32 j ∧ t.dstLen = 0)

/-- R173, R174: the bit that completes symbol number N_MAX + 1 raises CapacityError with its index; DST_LEN is 0. -/
def Obligations.UnpackRefusesALongOutput : Prop :=
  ∀ (s : State) (ps : List (Byte × List Bool)) (last : Byte × List Bool) (rest : List Bool), s.ready = true → s.treeOk →
    s.nodeCnt ≠ 0 → (∀ p ∈ ps, s.treeCode p.1 p.2) → s.treeCode last.1 last.2 → ps.length = s.cfg.nMax →
    s.payBits = ps.flatMap (fun p => p.2) ++ last.2 ++ rest →
    ∃ t, exec .unpack s = .next t ∧ t.status = Status.failed .capacity .unpack ∧
      t.errInfo.toNat + 1 = (ps.flatMap fun p => p.2).length + last.2.length ∧ t.dstLen = 0

/-- R175 (a): UNPACK undoes PACK: with the table walked from the tree now in NODE, it gives back exactly SRC[0..SRC_LEN). -/
def Obligations.UnpackInvertsPack : Prop :=
  ∀ s t u : State, s.statusOk = true → s.ready = true → s.treeOk → exec .walk s = .next t →
    exec .pack { t with status := s.status } = .next u → u.status.err = .noError →
    ∃ v, exec .unpack { u with status := s.status } = .next v ∧ v.status = Status.finished ∧ v.dstLen = s.srcLen ∧
      ∀ i < s.srcLen.toNat, v.dstByte i = s.srcByte i

/-- The frame of FRAME and UNPACK, the commands that store to DST (R46, R167, R174, R181): FRAME stores to DST[0..DST_LEN),
UNPACK to DST[0..UP_O), which is at most N_MAX bytes and at most one byte a stream bit; no other byte of any memory, and no
register or table but those named, changes. `unpackStored` is the UP_O that R167's loop ends with, on an error too, run from
the accepted state. After the command the hidden registers hold any value (U6). -/
def Obligations.OutputCommandsFrame : Prop :=
  (∀ s t : State, exec .frame s = .next t →
    t = { s with
      dst := t.dst, dstLen := t.dstLen, hidden := t.hidden
      status := t.status, errInfo := t.errInfo, cmdEra := t.cmdEra } ∧
    (∀ a, t.dstLen.toNat ≤ a → t.dstByte a = s.dstByte a)) ∧
  (∀ s t : State, exec .unpack s = .next t →
    t = { s with
      dst := t.dst, dstLen := t.dstLen
      hidden := t.hidden
      status := t.status, errInfo := t.errInfo, cmdEra := t.cmdEra } ∧
    (∀ a, unpackStored (accept .unpack true s) ≤ a → t.dstByte a = s.dstByte a) ∧
    (∀ a, min s.cfg.nMax s.bitLen.toNat ≤ a → t.dstByte a = s.dstByte a)) ∧
  (∀ (i : Instr) (s t : State), i = .frame ∨ i = .unpack → exec i s = .next t →
    ∀ a, t.srcByte a = s.srcByte a ∧ t.payByte a = s.payByte a)

/-! ## COMPRESS and DECOMPRESS -/

/-- R100 with R112, R159 (e): COMPRESS is total for every input of at most N_MAX bytes: it completes without error, BITLEN ≤
8·SRC_LEN, and DST holds the container of that table, bit-length and payload. -/
def Obligations.CompressNeverFails : Prop :=
  ∀ s : State, s.statusOk = true → s.ready = true → s.srcLen.toNat ≤ s.cfg.nMax →
    ∃ t, exec .compress s = .next t ∧ t.status = Status.finished ∧ t.errInfo = 0 ∧
      (∀ b, (atSym t.freq b).toNat = s.srcBytes.count b) ∧ t.bitLen.toNat ≤ 8 * s.srcLen.toNat ∧
      t.payBits = s.srcBytes.flatMap t.codeBits ∧ t.dstLen.toNat = 6 + 5 * t.kView + ceil8 t.bitLen.toNat ∧
      t.dstNat 0 2 = t.kView ∧
      (∀ i b, (presentSymbols t.freq)[i]? = some b →
        t.dstByte (2 + 5 * i) = b ∧ t.dstNat (3 + 5 * i) 4 = (atSym t.freq b).toNat) ∧
      t.dstNat (2 + 5 * t.kView) 4 = t.bitLen.toNat ∧
      (∀ j < ceil8 t.bitLen.toNat, t.dstByte (6 + 5 * t.kView + j) = t.payByte j)

/-- R100, P2: COMPRESS is COUNT; BUILD; WALK; PACK; FRAME: the staged commands leave the same state, but for the hidden
registers, which hold any value after each (U6), and the model's counter of commands (log 14). -/
def Obligations.CompressIsItsStages : Prop :=
  ∀ s t₁ t₂ t₃ t₄ t₅ : State, s.statusOk = true → s.ready = true →
    exec .count s = .next t₁ → t₁.status.err = .noError →
    exec .build t₁ = .next t₂ → exec .walk t₂ = .next t₃ →
    exec .pack t₃ = .next t₄ → t₄.status.err = .noError →
    exec .frame t₄ = .next t₅ →
    ∃ (hid : Hidden) (era : Nat), exec .compress s = .next { t₅ with hidden := hid, cmdEra := era }

/-- R101, R205: DECOMPRESS is PARSE; BUILD; WALK; UNPACK. A raise in PARSE ends it with that error in phase 6, with what
PARSE leaves and DST_LEN = 0; else it leaves what the four staged commands leave, a raise in UNPACK, in phase 7 and with
DST_LEN = 0, among it. The hidden registers hold any value after each (U6), and the model's counter of commands differs
(log 14). -/
def Obligations.DecompressIsItsStages : Prop :=
  (∀ s t : State, s.statusOk = true → s.ready = true → exec .parse s = .next t → t.status.err ≠ .noError →
    (∃ hid, exec .decompress s = .next { t with dstLen := 0, hidden := hid }) ∧ t.status = Status.failed t.status.err .parse) ∧
  (∀ s t₁ t₂ t₃ t₄ : State, s.statusOk = true → s.ready = true →
    exec .parse s = .next t₁ → t₁.status.err = .noError →
    exec .build t₁ = .next t₂ → exec .walk t₂ = .next t₃ → exec .unpack t₃ = .next t₄ →
    (∃ (hid : Hidden) (era : Nat), exec .decompress s = .next { t₄ with hidden := hid, cmdEra := era }) ∧
      (t₄.status.err ≠ .noError → t₄.status = Status.failed t₄.status.err .unpack ∧ t₄.dstLen = 0))

/-- R101, R70: DECOMPRESS of a container whose stream bits are the codes of a message of at most N_MAX bytes, in the tree of
its table, gives the message. -/
def Obligations.DecompressDecodesAContainer : Prop :=
  ∀ (s : State) (f : Vector Word 256) (ps : List (Byte × List Bool)), s.statusOk = true → s.ready = true →
    freqTotal f ≤ s.cfg.nMax → (∀ p ∈ ps, (treeState f).treeCode p.1 p.2) → (presentSymbols f = [] → ps = []) →
    s.holdsContainer f (ps.flatMap fun p => p.2) → s.srcLen.toNat ≤ s.bufBytes → ps.length ≤ s.cfg.nMax →
    ∃ t, exec .decompress s = .next t ∧ t.status = Status.finished ∧ t.errInfo = 0 ∧ t.dstLen.toNat = ps.length ∧
      (∀ i p, ps[i]? = some p → t.dstByte i = p.1) ∧ t.freq = f ∧ t.node = (buildTree f).nodes

/-- R103: the round trip. DECOMPRESS of the container COMPRESS wrote gives back the input, whatever it was. -/
def Obligations.DecompressInvertsCompress : Prop :=
  ∀ s t u : State, s.ready = true → s.srcLen.toNat ≤ s.cfg.nMax → exec .compress s = .next t →
    u.statusOk = true → u.ready = true → u.cfg = s.cfg → u.srcLen = t.dstLen →
    (∀ i < t.dstLen.toNat, u.srcByte i = t.dstByte i) →
    ∃ v, exec .decompress u = .next v ∧ v.status = Status.finished ∧ v.dstLen = s.srcLen ∧
      ∀ i < s.srcLen.toNat, v.dstByte i = s.srcByte i

/-- R102: what the macro commands leave depends on SRC[0..SRC_LEN) and SRC_LEN alone. COMPRESS: for an input within N_MAX
(beyond it FREQ is left as it was, R110); DECOMPRESS: NODE and CODE only where PARSE passed (R190 leaves them as they
were). -/
def Obligations.MacroResultsDependOnSourceAlone : Prop :=
  ∀ (i : Instr) (s₁ s₂ t₁ t₂ : State), (i = .compress ∧ s₁.srcLen.toNat ≤ s₁.cfg.nMax) ∨ i = .decompress →
    s₁.ready = true → s₂.ready = true → s₁.statusOk = true → s₂.statusOk = true → s₁.cfg = s₂.cfg →
    s₁.srcLen = s₂.srcLen → s₁.srcBytes = s₂.srcBytes → exec i s₁ = .next t₁ → exec i s₂ = .next t₂ →
    t₁.status = t₂.status ∧ t₁.errInfo = t₂.errInfo ∧ t₁.freq = t₂.freq ∧ t₁.bitLen = t₂.bitLen ∧ t₁.dstLen = t₂.dstLen ∧
    (∀ j < ceil8 t₁.bitLen.toNat, t₁.payByte j = t₂.payByte j) ∧ (∀ j < t₁.dstLen.toNat, t₁.dstByte j = t₂.dstByte j) ∧
    (t₁.status.ephase ≠ .parse → t₁.node = t₂.node ∧ t₁.nodeCnt = t₂.nodeCnt ∧ t₁.code = t₂.code)

/-- The frame of COMPRESS and DECOMPRESS (R46, R100, R101): both store to PAY[0..ceil8(BITLEN)); COMPRESS to
DST[0..DST_LEN), DECOMPRESS to DST[0..UP_O), which is at most N_MAX bytes and at most one byte a stream bit; the tables and
registers named change. `unpackStored` is the UP_O that R167's loop ends with, on an error too, run over the tree and the
payload that the command made and the DST it found. After the command the hidden registers hold any value (U6). -/
def Obligations.MacroCommandsFrame : Prop :=
  (∀ (i : Instr) (s t : State), i = .compress ∨ i = .decompress → exec i s = .next t →
    t = { s with
      dst := t.dst, pay := t.pay, freq := t.freq, node := t.node, inq := t.inq, code := t.code, dstLen := t.dstLen
      bitLen := t.bitLen, nodeCnt := t.nodeCnt, status := t.status, errInfo := t.errInfo, hidden := t.hidden
      cmdEra := t.cmdEra } ∧
    (∀ a, t.srcByte a = s.srcByte a)) ∧
  (∀ s t : State, exec .compress s = .next t →
    (∀ a, ceil8 t.bitLen.toNat ≤ a → t.payByte a = s.payByte a) ∧ (∀ a, t.dstLen.toNat ≤ a → t.dstByte a = s.dstByte a)) ∧
  (∀ s t : State, exec .decompress s = .next t →
    (∀ a, ceil8 t.bitLen.toNat ≤ a → t.payByte a = s.payByte a) ∧
    (∀ a, unpackStored { t with dst := s.dst } ≤ a → t.dstByte a = s.dstByte a) ∧
    (∀ a, min s.cfg.nMax t.bitLen.toNat ≤ a → t.dstByte a = s.dstByte a))

/-- R11, R25, R239: no command but SRST writes SRC, SRC_LEN, INT_EN or a pointer register. -/
def Obligations.OnlyTheHostWritesItsRegisters : Prop :=
  ∀ (i : Instr) (s t : State), i ≠ .srst → exec i s = .next t →
    t.src = s.src ∧ t.srcLen = s.srcLen ∧ t.intEn = s.intEn ∧ t.srcPtr = s.srcPtr ∧ t.dstPtr = s.dstPtr ∧
    t.tblSel = s.tblSel ∧ t.tblIdx = s.tblIdx ∧ t.cfg = s.cfg ∧ t.host = s.host ∧ t.replies = s.replies ∧
    t.resetEra = s.resetEra ∧ t.flight = s.flight ∧ t.unseen = s.unseen

/-! ## The host interface -/

/-- R20, R25, R26, R27, R28, R29: while BUSY = 0 a read/write register reads back what was written, in its writable bits, and
the write changes nothing else. -/
def Obligations.RegistersReadBackWhatWasWritten : Prop :=
  ∀ (s : State) (d : Word), s.status.busy = false →
    hostWrite 0x10 d s = .next { s with intEn := d.setWidth 2 } ∧
    hostWrite 0x14 d s = .next { s with srcLen := d } ∧
    hostWrite 0x28 d s = .next { s with srcPtr := d } ∧
    hostWrite 0x30 d s = .next { s with dstPtr := d } ∧
    hostWrite 0x38 d s = .next { s with tblSel := d.setWidth 2 } ∧
    hostWrite 0x3C d s = .next { s with tblIdx := d } ∧
    hostRead 0x10 { s with intEn := d.setWidth 2 } = { s with intEn := d.setWidth 2, replies := (d &&& 3#32) :: s.replies } ∧
    hostRead 0x14 { s with srcLen := d } = { s with srcLen := d, replies := d :: s.replies } ∧
    hostRead 0x28 { s with srcPtr := d } = { s with srcPtr := d, replies := d :: s.replies } ∧
    hostRead 0x30 { s with dstPtr := d } = { s with dstPtr := d, replies := d :: s.replies } ∧
    hostRead 0x38 { s with tblSel := d.setWidth 2 } = { s with tblSel := d.setWidth 2, replies := (d &&& 3#32) :: s.replies } ∧
    hostRead 0x3C { s with tblIdx := d } = { s with tblIdx := d, replies := d :: s.replies }

/-- R20, R21, R23, R24, R27, R28, R29: a write of a read-only register or a reserved offset changes nothing; reserved offsets
and CMD read 0, K is the number of present symbols and ID the constant. -/
def Obligations.ReadOnlyRegistersIgnoreWrites : Prop :=
  (∀ (s : State) (off : Nat) (d : Word),
    off ∈ [0x00, 0x08, 0x0C, 0x18, 0x1C, 0x20, 0x24, 0x34, 0x40] ∨ 0x44 ≤ off → hostWrite off d s = .next s) ∧
  (∀ (s : State), s.status.busy = false →
    (∀ off, 0x44 ≤ off → hostRead off s = { s with replies := 0 :: s.replies }) ∧
    hostRead 0x00 s = { s with replies := 0x48554631#32 :: s.replies } ∧
    hostRead 0x04 s = { s with replies := 0 :: s.replies } ∧
    hostRead 0x08 s = { s with replies := s.status.word :: s.replies, unseen := false } ∧
    hostRead 0x0C s = { s with replies := s.errInfo :: s.replies } ∧
    hostRead 0x18 s = { s with replies := s.dstLen :: s.replies } ∧
    hostRead 0x1C s =
      { s with replies := BitVec.ofNat 32 (symbols.countP fun b => atSym s.freq b != 0) :: s.replies } ∧
    hostRead 0x20 s = { s with replies := s.bitLen :: s.replies } ∧
    hostRead 0x24 s = { s with replies := s.nodeCnt.setWidth 32 :: s.replies })

/-- R26, R27, R12: the two data ports. SRC_DATA: a write stores bits 7:0 at SRC_PTR and a read returns the byte there, and
each advances SRC_PTR while SRC_PTR < BUF_BYTES; from BUF_BYTES on a write is ignored and a read returns 0. DST_DATA: a read
returns the byte at DST_PTR, DST's own below DST_LEN and some byte from there on, and advances DST_PTR; from BUF_BYTES on it
returns 0. -/
def Obligations.DataPortsAdvanceTheirPointers : Prop :=
  ∀ (s : State) (d : Word), s.status.busy = false →
    (s.srcPtr.toNat < s.bufBytes →
      (∃ t, hostWrite 0x2C d s = .next t ∧ t.srcByte s.srcPtr.toNat = d.setWidth 8 ∧ t.srcPtr = s.srcPtr + 1 ∧
        (∀ a, a ≠ s.srcPtr.toNat → t.srcByte a = s.srcByte a) ∧ t = { s with src := t.src, srcPtr := t.srcPtr }) ∧
      hostRead 0x2C s =
        { s with srcPtr := s.srcPtr + 1, replies := (s.srcByte s.srcPtr.toNat).setWidth 32 :: s.replies }) ∧
    (s.bufBytes ≤ s.srcPtr.toNat →
      hostWrite 0x2C d s = .next s ∧ hostRead 0x2C s = { s with replies := 0 :: s.replies }) ∧
    (s.dstPtr.toNat < s.bufBytes → s.dstPtr.toNat < s.dstLen.toNat →
      hostRead 0x34 s =
        { s with dstPtr := s.dstPtr + 1, replies := (s.dstByte s.dstPtr.toNat).setWidth 32 :: s.replies }) ∧
    (s.dstPtr.toNat < s.bufBytes → s.dstLen.toNat ≤ s.dstPtr.toNat →
      ∃ b : Byte, hostRead 0x34 s = { s with dstPtr := s.dstPtr + 1, replies := b.setWidth 32 :: s.replies }) ∧
    (s.bufBytes ≤ s.dstPtr.toNat → hostRead 0x34 s = { s with replies := 0 :: s.replies })

/-- R28, R29: a read of TBL_DATA, at 0x40, returns the selected word and has no side effect; that word for valid entries of
the four tables, and 0 outside their ranges. -/
def Obligations.TablePortReadsTheTables : Prop :=
  ∀ (s : State) (i : Nat), s.tblIdx.toNat = i →
    (s.status.busy = false → hostRead 0x40 s = { s with replies := s.tableRead :: s.replies }) ∧
    (s.tblSel = 0 → ∀ b : Byte, b.toNat = i → s.tableRead = atSym s.freq b) ∧
    (s.tblSel = 0 → 256 ≤ i → s.tableRead = 0) ∧
    (s.tblSel = 1 → ∀ m n, m < s.nodeCnt.toNat → s.node[m]? = some n →
      (i = 2 * m → s.tableRead = n.freq) ∧
      (i = 2 * m + 1 → s.tableRead.getLsbD 31 = n.isInternal ∧ s.tableRead.extractLsb' 26 5 = 0 ∧
        s.tableRead.extractLsb' 18 8 = n.sym ∧ s.tableRead.extractLsb' 9 9 = n.low ∧
        s.tableRead.extractLsb' 0 9 = n.high)) ∧
    (s.tblSel = 1 → 1022 ≤ i → s.tableRead = 0) ∧
    (s.tblSel = 2 → ∀ (b : Byte) (w : Nat), w < 16 → i = 16 * b.toNat + w →
      (∀ c, atSym s.code b = some c →
        (w = 0 → s.tableRead.getLsbD 31 = true ∧ s.tableRead.extractLsb' 8 23 = 0 ∧ s.tableRead.extractLsb' 0 8 = c.len) ∧
        (1 ≤ w → w ≤ 8 → s.tableRead.toNat = c.val.toNat / 2 ^ (32 * (w - 1)) % 2 ^ 32) ∧
        (9 ≤ w → s.tableRead = 0)) ∧
      (atSym s.code b = none → (w = 0 → s.tableRead.getLsbD 31 = false) ∧ (9 ≤ w → s.tableRead = 0))) ∧
    (s.tblSel = 2 → 4096 ≤ i → s.tableRead = 0) ∧
    (s.tblSel = 3 → i < s.bufBytes → i < ceil8 s.bitLen.toNat → s.tableRead = (s.payByte i).setWidth 32) ∧
    (s.tblSel = 3 → s.bufBytes ≤ i → s.tableRead = 0)

/-- R22, R23, R200, R212: the layout of the STATUS word; `irq` is (IE_DONE and DONE) or (IE_ERR and ERR ≠ 0), and so it is 0
while BUSY = 1, after CLRST and at reset. -/
def Obligations.StatusWordAndIrq : Prop :=
  (∀ st : Status,
    st.word.getLsbD 0 = st.busy ∧ st.word.getLsbD 1 = st.done ∧ st.word.extractLsb' 2 2 = 0 ∧
    st.word.extractLsb' 4 4 = st.err.code ∧ st.word.extractLsb' 8 4 = st.phase.code ∧
    st.word.extractLsb' 12 4 = st.ephase.code ∧ st.word.extractLsb' 16 16 = 0) ∧
  (∀ s : State, s.irq = true ↔
    ((s.intEn.getLsbD 0 = true ∧ s.status.done = true) ∨ (s.intEn.getLsbD 1 = true ∧ s.status.err ≠ .noError))) ∧
  (∀ s : State, s.statusOk = true → s.status.busy = true → s.irq = false) ∧
  (∀ s t : State, s.status.busy = false → exec .clrst s = .next t → t.irq = false) ∧
  State.reset.irq = false

/-- R41, R236: a step is refused exactly when the host's next transaction is outside the interface (not 32 bits wide, at an
offset that is no multiple of 4, or past 0xFC), or is made before the host has seen BUSY = 0 and is neither a read of STATUS
or ID nor a write of SRST; each with its own name. That a read of CMD and a command word R91 ignores are refused there is log 4
(DEDUCED), and the form of a transaction of another width is log 21 (a DESIGN CHOICE). -/
def Obligations.OnlyOutsideTransactionsAreRefused : Prop :=
  ∀ s : State,
    ((∃ w off, step s = .refused (.outsideInterface w off)) ↔
      ((∃ off rest, s.host = .read off :: rest ∧ (off % 4 ≠ 0 ∨ off > 0xFC)) ∨
        (∃ off d rest, s.host = .write off d :: rest ∧ (off % 4 ≠ 0 ∨ off > 0xFC)) ∨
        (∃ w off rest, s.host = .irregular w off :: rest))) ∧
    ((∃ off, step s = .refused (.busyAccess off)) ↔
      s.unseen = true ∧
        ((∃ off rest, s.host = .read off :: rest ∧ off % 4 = 0 ∧ off ≤ 0xFC ∧ off ≠ 0x00 ∧ off ≠ 0x08) ∨
          (∃ off d rest, s.host = .write off d :: rest ∧ off % 4 = 0 ∧ off ≤ 0xFC ∧
            ¬ (off = 0x04 ∧ d = 0x0000000F#32)))) ∧
    (∀ r, step s = .refused r → (∃ w off, r = .outsideInterface w off) ∨ ∃ off, r = .busyAccess off)

/-- R47 (b), (c), (d), R236: while BUSY = 1 a write of any register but CMD is ignored, STATUS and ID read their values, and no
read has a side effect. A step in which the host makes any other access than a read of STATUS or ID and a write of SRST goes
on only where the host has seen BUSY = 0, and then no command is running; a host that breaks the rule is refused. -/
def Obligations.BusyWindowRule : Prop :=
  (∀ s : State, s.status.busy = true →
    (∀ off d, off ≠ 0x04 → hostWrite off d s = .next s) ∧
    (∀ off, ∃ v, hostRead off s = { s with replies := v :: s.replies }) ∧
    hostRead 0x08 s = { s with replies := s.status.word :: s.replies } ∧
    hostRead 0x00 s = { s with replies := 0x48554631#32 :: s.replies }) ∧
  (∀ (s t : State) (op : HostOp) (rest : List HostOp), s.statusOk = true → s.host = op :: rest → step s = .next t →
    (∀ off, op = .read off → off ≠ 0x00 → off ≠ 0x08 → s.unseen = false ∧ s.flight = none ∧ s.status.busy = false) ∧
    (∀ off d, op = .write off d → ¬ (off = 0x04 ∧ d = 0x0000000F#32) →
      s.unseen = false ∧ s.flight = none ∧ s.status.busy = false)) ∧
  (∀ s : State, s.followsBusyRule = false → ∃ r, step s = .refused r)

/-- R240, R242: whatever the free length of the BUSY window, WAIT ends: after finitely many steps the command's STATUS and
ERR_INFO are in place, BUSY = 0 and the host goes on. -/
def Obligations.WaitingForACommandEnds : Prop :=
  ∀ (s : State) (f : Flight) (rest : List HostOp), s.statusOk = true → s.flight = some f → s.host = .wait :: rest →
    ∃ t, core.run (f.left + 1) s = .next t ∧ t.flight = none ∧ t.unseen = false ∧ t.status = f.final ∧
      t.errInfo = f.info ∧ t.host = rest ∧ t.replies.head? = some f.final.word

/-- R22, R98, R100, R101, R205: the phases a command shows in its BUSY window are its own, in its own order: all of them when
it ends without error, those up to the raising one when it does not; time only moves it on along them, and at the window's end
STATUS and ERR_INFO are those of the completion. How many transactions the window holds, and how far each moves, are free
values (log 3). -/
def Obligations.WindowShowsTheCommandsPhases : Prop :=
  (∀ ip ∈ [(Instr.count, [Phase.count]), (.build, [.build]), (.walk, [.walk]), (.pack, [.pack]), (.frame, [.frame]),
      (.parse, [.parse]), (.unpack, [.unpack]), (.compress, [.count, .build, .walk, .pack, .frame]),
      (.decompress, [.parse, .build, .walk, .unpack])],
    ∀ s t : State, s.ready = true → exec ip.1 s = .next t →
      ∃ f, (launch ip.1 s t).flight = some f ∧ (t.status.err = .noError → f.phases = ip.2) ∧
        (t.status.err ≠ .noError → (∃ rest, ip.2 = f.phases ++ rest) ∧ f.phases.getLast? = some t.status.ephase)) ∧
  (∀ (s : State) (f : Flight), s.flight = some f →
    (f.left = 0 → tick s = { s with status := f.final, errInfo := f.info, flight := none }) ∧
    (∀ n, f.left = n + 1 → f.phases ≠ [] →
      ∃ p ps, p :: ps <:+ f.phases ∧
        tick s =
          { s with
            status := { s.status with phase := p }
            flight := some { f with left := n, phases := p :: ps } }))

/-! ## Invariants and whole-machine rules -/

/-- The reset state meets the invariants (R231). -/
def Obligations.ResetMeetsTheInvariants : Prop :=
  State.reset.statusOk = true ∧ State.reset.memoriesOk = true ∧ State.reset.freqOk ∧ State.reset.treeOk ∧
  State.reset.codesOk ∧ State.reset.payloadOk ∧ State.reset.outputOk

/-- R22, R23, R24, R92, R93, R200, R205, R206: every step keeps the invariant of STATUS and ERR_INFO: PHASE ≠ 0 exactly when
BUSY = 1, no error and no DONE while BUSY, EPHASE and ERR_INFO fit ERR. -/
def Obligations.StepKeepsTheStatusRules : Prop :=
  ∀ s t : State, s.statusOk = true → step s = .next t → t.statusOk = true

/-- R40, R45: every step keeps the byte memories in canonical form and within BUF_BYTES. -/
def Obligations.StepKeepsTheMemories : Prop :=
  ∀ s t : State, s.memoriesOk = true → step s = .next t → t.memoriesOk = true

/-- R14: every step keeps Σ FREQ ≤ N_MAX. -/
def Obligations.StepKeepsTheFrequencySum : Prop :=
  ∀ s t : State, s.freqOk → step s = .next t → t.freqOk

/-- R15, R16, R17, R18: every step keeps NODE a tree with NODE_CNT its size and the root the queue's member, and every valid
code between 1 and 255 bits with `val < 2^len`. -/
def Obligations.StepKeepsTheTreeAndTheCodes : Prop :=
  ∀ s t : State, s.treeOk → s.codesOk → step s = .next t → t.treeOk ∧ t.codesOk

/-- R12, R13, R20: every step keeps PAY[0..ceil8(BITLEN)) and DST[0..DST_LEN) written and within BUF_BYTES. -/
def Obligations.StepKeepsTheValidBytesWritten : Prop :=
  ∀ s t : State, s.payloadOk → s.outputOk → step s = .next t → t.payloadOk ∧ t.outputOk

/-- R141, R242: with NODE a tree, which every step keeps, no step faults. -/
def Obligations.NoStepFaults : Prop :=
  ∀ s : State, s.treeOk → noFault (step s) = true

/-- R91, R209, R210, R238: a latched error stays, with its EPHASE and ERR_INFO, until the host writes CLRST or SRST or the
platform resets the block; no other operation of the host changes it. -/
def Obligations.ErrorsStayLatched : Prop :=
  ∀ s t : State, s.statusOk = true → s.flight = none → s.status.err ≠ .noError → step s = .next t →
    (t.status = s.status ∧ t.errInfo = s.errInfo) ∨
    (∃ rest, s.host = .hardReset :: rest) ∨ (∃ rest, s.host = .write 0x04 0x0000000A#32 :: rest) ∨
    (∃ rest, s.host = .write 0x04 0x0000000F#32 :: rest)
end

