-- ==== Sys2Proof/Laws/State.lean ====
section
/-! SUPPORT. One lemma per field of State and shared update, true by rfl: no later proof unfolds a record update. -/

namespace Sys2Proof.Machine

section Updates
variable (s : State)

/-! ### accept -/

@[simp] theorem accept_cfg (p : Phase) (c : Bool) : (accept p c s).cfg = s.cfg := rfl
@[simp] theorem accept_src (p : Phase) (c : Bool) : (accept p c s).src = s.src := rfl
@[simp] theorem accept_dst (p : Phase) (c : Bool) : (accept p c s).dst = s.dst := rfl
@[simp] theorem accept_pay (p : Phase) (c : Bool) : (accept p c s).pay = s.pay := rfl
@[simp] theorem accept_freq (p : Phase) (c : Bool) : (accept p c s).freq = s.freq := rfl
@[simp] theorem accept_node (p : Phase) (c : Bool) : (accept p c s).node = s.node := rfl
@[simp] theorem accept_inq (p : Phase) (c : Bool) : (accept p c s).inq = s.inq := rfl
@[simp] theorem accept_code (p : Phase) (c : Bool) : (accept p c s).code = s.code := rfl
@[simp] theorem accept_srcLen (p : Phase) (c : Bool) : (accept p c s).srcLen = s.srcLen := rfl
@[simp] theorem accept_dstLen (p : Phase) (c : Bool) : (accept p c s).dstLen = if c then 0 else s.dstLen := rfl
@[simp] theorem accept_bitLen (p : Phase) (c : Bool) : (accept p c s).bitLen = s.bitLen := rfl
@[simp] theorem accept_nodeCnt (p : Phase) (c : Bool) : (accept p c s).nodeCnt = s.nodeCnt := rfl
@[simp] theorem accept_srcPtr (p : Phase) (c : Bool) : (accept p c s).srcPtr = s.srcPtr := rfl
@[simp] theorem accept_dstPtr (p : Phase) (c : Bool) : (accept p c s).dstPtr = s.dstPtr := rfl
@[simp] theorem accept_tblSel (p : Phase) (c : Bool) : (accept p c s).tblSel = s.tblSel := rfl
@[simp] theorem accept_tblIdx (p : Phase) (c : Bool) : (accept p c s).tblIdx = s.tblIdx := rfl
@[simp] theorem accept_status (p : Phase) (c : Bool) : (accept p c s).status = { s.status with done := false, busy := true, phase := p } := rfl
@[simp] theorem accept_errInfo (p : Phase) (c : Bool) : (accept p c s).errInfo = s.errInfo := rfl
@[simp] theorem accept_intEn (p : Phase) (c : Bool) : (accept p c s).intEn = s.intEn := rfl
@[simp] theorem accept_hidden (p : Phase) (c : Bool) : (accept p c s).hidden = s.hidden := rfl
@[simp] theorem accept_flight (p : Phase) (c : Bool) : (accept p c s).flight = s.flight := rfl
@[simp] theorem accept_unseen (p : Phase) (c : Bool) : (accept p c s).unseen = s.unseen := rfl
@[simp] theorem accept_host (p : Phase) (c : Bool) : (accept p c s).host = s.host := rfl
@[simp] theorem accept_replies (p : Phase) (c : Bool) : (accept p c s).replies = s.replies := rfl
@[simp] theorem accept_resetEra (p : Phase) (c : Bool) : (accept p c s).resetEra = s.resetEra := rfl
@[simp] theorem accept_cmdEra (p : Phase) (c : Bool) : (accept p c s).cmdEra = s.cmdEra + 1 := rfl

/-! ### enterPhase -/

@[simp] theorem enterPhase_cfg (p : Phase) : (enterPhase p s).cfg = s.cfg := rfl
@[simp] theorem enterPhase_src (p : Phase) : (enterPhase p s).src = s.src := rfl
@[simp] theorem enterPhase_dst (p : Phase) : (enterPhase p s).dst = s.dst := rfl
@[simp] theorem enterPhase_pay (p : Phase) : (enterPhase p s).pay = s.pay := rfl
@[simp] theorem enterPhase_freq (p : Phase) : (enterPhase p s).freq = s.freq := rfl
@[simp] theorem enterPhase_node (p : Phase) : (enterPhase p s).node = s.node := rfl
@[simp] theorem enterPhase_inq (p : Phase) : (enterPhase p s).inq = s.inq := rfl
@[simp] theorem enterPhase_code (p : Phase) : (enterPhase p s).code = s.code := rfl
@[simp] theorem enterPhase_srcLen (p : Phase) : (enterPhase p s).srcLen = s.srcLen := rfl
@[simp] theorem enterPhase_dstLen (p : Phase) : (enterPhase p s).dstLen = s.dstLen := rfl
@[simp] theorem enterPhase_bitLen (p : Phase) : (enterPhase p s).bitLen = s.bitLen := rfl
@[simp] theorem enterPhase_nodeCnt (p : Phase) : (enterPhase p s).nodeCnt = s.nodeCnt := rfl
@[simp] theorem enterPhase_srcPtr (p : Phase) : (enterPhase p s).srcPtr = s.srcPtr := rfl
@[simp] theorem enterPhase_dstPtr (p : Phase) : (enterPhase p s).dstPtr = s.dstPtr := rfl
@[simp] theorem enterPhase_tblSel (p : Phase) : (enterPhase p s).tblSel = s.tblSel := rfl
@[simp] theorem enterPhase_tblIdx (p : Phase) : (enterPhase p s).tblIdx = s.tblIdx := rfl
@[simp] theorem enterPhase_status (p : Phase) : (enterPhase p s).status = { s.status with phase := p } := rfl
@[simp] theorem enterPhase_errInfo (p : Phase) : (enterPhase p s).errInfo = s.errInfo := rfl
@[simp] theorem enterPhase_intEn (p : Phase) : (enterPhase p s).intEn = s.intEn := rfl
@[simp] theorem enterPhase_hidden (p : Phase) : (enterPhase p s).hidden = s.hidden := rfl
@[simp] theorem enterPhase_flight (p : Phase) : (enterPhase p s).flight = s.flight := rfl
@[simp] theorem enterPhase_unseen (p : Phase) : (enterPhase p s).unseen = s.unseen := rfl
@[simp] theorem enterPhase_host (p : Phase) : (enterPhase p s).host = s.host := rfl
@[simp] theorem enterPhase_replies (p : Phase) : (enterPhase p s).replies = s.replies := rfl
@[simp] theorem enterPhase_resetEra (p : Phase) : (enterPhase p s).resetEra = s.resetEra := rfl
@[simp] theorem enterPhase_cmdEra (p : Phase) : (enterPhase p s).cmdEra = s.cmdEra := rfl

/-! ### complete -/

@[simp] theorem complete_cfg : (complete s).cfg = s.cfg := rfl
@[simp] theorem complete_src : (complete s).src = s.src := rfl
@[simp] theorem complete_dst : (complete s).dst = s.dst := rfl
@[simp] theorem complete_pay : (complete s).pay = s.pay := rfl
@[simp] theorem complete_freq : (complete s).freq = s.freq := rfl
@[simp] theorem complete_node : (complete s).node = s.node := rfl
@[simp] theorem complete_inq : (complete s).inq = s.inq := rfl
@[simp] theorem complete_code : (complete s).code = s.code := rfl
@[simp] theorem complete_srcLen : (complete s).srcLen = s.srcLen := rfl
@[simp] theorem complete_dstLen : (complete s).dstLen = s.dstLen := rfl
@[simp] theorem complete_bitLen : (complete s).bitLen = s.bitLen := rfl
@[simp] theorem complete_nodeCnt : (complete s).nodeCnt = s.nodeCnt := rfl
@[simp] theorem complete_srcPtr : (complete s).srcPtr = s.srcPtr := rfl
@[simp] theorem complete_dstPtr : (complete s).dstPtr = s.dstPtr := rfl
@[simp] theorem complete_tblSel : (complete s).tblSel = s.tblSel := rfl
@[simp] theorem complete_tblIdx : (complete s).tblIdx = s.tblIdx := rfl
@[simp] theorem complete_status : (complete s).status = { s.status with busy := false, done := true, phase := .idle } := rfl
@[simp] theorem complete_errInfo : (complete s).errInfo = s.errInfo := rfl
@[simp] theorem complete_intEn : (complete s).intEn = s.intEn := rfl
@[simp] theorem complete_hidden : (complete s).hidden = s.hidden := rfl
@[simp] theorem complete_flight : (complete s).flight = s.flight := rfl
@[simp] theorem complete_unseen : (complete s).unseen = s.unseen := rfl
@[simp] theorem complete_host : (complete s).host = s.host := rfl
@[simp] theorem complete_replies : (complete s).replies = s.replies := rfl
@[simp] theorem complete_resetEra : (complete s).resetEra = s.resetEra := rfl
@[simp] theorem complete_cmdEra : (complete s).cmdEra = s.cmdEra := rfl

/-! ### releaseHidden -/

@[simp] theorem releaseHidden_cfg : (releaseHidden s).cfg = s.cfg := rfl
@[simp] theorem releaseHidden_src : (releaseHidden s).src = s.src := rfl
@[simp] theorem releaseHidden_dst : (releaseHidden s).dst = s.dst := rfl
@[simp] theorem releaseHidden_pay : (releaseHidden s).pay = s.pay := rfl
@[simp] theorem releaseHidden_freq : (releaseHidden s).freq = s.freq := rfl
@[simp] theorem releaseHidden_node : (releaseHidden s).node = s.node := rfl
@[simp] theorem releaseHidden_inq : (releaseHidden s).inq = s.inq := rfl
@[simp] theorem releaseHidden_code : (releaseHidden s).code = s.code := rfl
@[simp] theorem releaseHidden_srcLen : (releaseHidden s).srcLen = s.srcLen := rfl
@[simp] theorem releaseHidden_dstLen : (releaseHidden s).dstLen = s.dstLen := rfl
@[simp] theorem releaseHidden_bitLen : (releaseHidden s).bitLen = s.bitLen := rfl
@[simp] theorem releaseHidden_nodeCnt : (releaseHidden s).nodeCnt = s.nodeCnt := rfl
@[simp] theorem releaseHidden_srcPtr : (releaseHidden s).srcPtr = s.srcPtr := rfl
@[simp] theorem releaseHidden_dstPtr : (releaseHidden s).dstPtr = s.dstPtr := rfl
@[simp] theorem releaseHidden_tblSel : (releaseHidden s).tblSel = s.tblSel := rfl
@[simp] theorem releaseHidden_tblIdx : (releaseHidden s).tblIdx = s.tblIdx := rfl
@[simp] theorem releaseHidden_status : (releaseHidden s).status = s.status := rfl
@[simp] theorem releaseHidden_errInfo : (releaseHidden s).errInfo = s.errInfo := rfl
@[simp] theorem releaseHidden_intEn : (releaseHidden s).intEn = s.intEn := rfl
@[simp] theorem releaseHidden_hidden : (releaseHidden s).hidden =
    { Config.freeHidden s.cmdEra with wstk := (Config.freeHidden s.cmdEra).wstk.take 256 } := rfl
@[simp] theorem releaseHidden_flight : (releaseHidden s).flight = s.flight := rfl
@[simp] theorem releaseHidden_unseen : (releaseHidden s).unseen = s.unseen := rfl
@[simp] theorem releaseHidden_host : (releaseHidden s).host = s.host := rfl
@[simp] theorem releaseHidden_replies : (releaseHidden s).replies = s.replies := rfl
@[simp] theorem releaseHidden_resetEra : (releaseHidden s).resetEra = s.resetEra := rfl
@[simp] theorem releaseHidden_cmdEra : (releaseHidden s).cmdEra = s.cmdEra := rfl

/-! ### raise -/

@[simp] theorem raise_cfg (e : ErrCode) (w : Word) (p : Phase) : (raise e w p s).cfg = s.cfg := rfl
@[simp] theorem raise_src (e : ErrCode) (w : Word) (p : Phase) : (raise e w p s).src = s.src := rfl
@[simp] theorem raise_dst (e : ErrCode) (w : Word) (p : Phase) : (raise e w p s).dst = s.dst := rfl
@[simp] theorem raise_pay (e : ErrCode) (w : Word) (p : Phase) : (raise e w p s).pay = s.pay := rfl
@[simp] theorem raise_freq (e : ErrCode) (w : Word) (p : Phase) : (raise e w p s).freq = s.freq := rfl
@[simp] theorem raise_node (e : ErrCode) (w : Word) (p : Phase) : (raise e w p s).node = s.node := rfl
@[simp] theorem raise_inq (e : ErrCode) (w : Word) (p : Phase) : (raise e w p s).inq = s.inq := rfl
@[simp] theorem raise_code (e : ErrCode) (w : Word) (p : Phase) : (raise e w p s).code = s.code := rfl
@[simp] theorem raise_srcLen (e : ErrCode) (w : Word) (p : Phase) : (raise e w p s).srcLen = s.srcLen := rfl
@[simp] theorem raise_dstLen (e : ErrCode) (w : Word) (p : Phase) : (raise e w p s).dstLen = s.dstLen := rfl
@[simp] theorem raise_bitLen (e : ErrCode) (w : Word) (p : Phase) : (raise e w p s).bitLen = s.bitLen := rfl
@[simp] theorem raise_nodeCnt (e : ErrCode) (w : Word) (p : Phase) : (raise e w p s).nodeCnt = s.nodeCnt := rfl
@[simp] theorem raise_srcPtr (e : ErrCode) (w : Word) (p : Phase) : (raise e w p s).srcPtr = s.srcPtr := rfl
@[simp] theorem raise_dstPtr (e : ErrCode) (w : Word) (p : Phase) : (raise e w p s).dstPtr = s.dstPtr := rfl
@[simp] theorem raise_tblSel (e : ErrCode) (w : Word) (p : Phase) : (raise e w p s).tblSel = s.tblSel := rfl
@[simp] theorem raise_tblIdx (e : ErrCode) (w : Word) (p : Phase) : (raise e w p s).tblIdx = s.tblIdx := rfl
@[simp] theorem raise_status (e : ErrCode) (w : Word) (p : Phase) : (raise e w p s).status = Status.failed e p := rfl
@[simp] theorem raise_errInfo (e : ErrCode) (w : Word) (p : Phase) : (raise e w p s).errInfo = w := rfl
@[simp] theorem raise_intEn (e : ErrCode) (w : Word) (p : Phase) : (raise e w p s).intEn = s.intEn := rfl
@[simp] theorem raise_hidden (e : ErrCode) (w : Word) (p : Phase) : (raise e w p s).hidden = s.hidden := rfl
@[simp] theorem raise_flight (e : ErrCode) (w : Word) (p : Phase) : (raise e w p s).flight = s.flight := rfl
@[simp] theorem raise_unseen (e : ErrCode) (w : Word) (p : Phase) : (raise e w p s).unseen = s.unseen := rfl
@[simp] theorem raise_host (e : ErrCode) (w : Word) (p : Phase) : (raise e w p s).host = s.host := rfl
@[simp] theorem raise_replies (e : ErrCode) (w : Word) (p : Phase) : (raise e w p s).replies = s.replies := rfl
@[simp] theorem raise_resetEra (e : ErrCode) (w : Word) (p : Phase) : (raise e w p s).resetEra = s.resetEra := rfl
@[simp] theorem raise_cmdEra (e : ErrCode) (w : Word) (p : Phase) : (raise e w p s).cmdEra = s.cmdEra := rfl

/-! ### clearStatus -/

@[simp] theorem clearStatus_cfg : (clearStatus s).cfg = s.cfg := rfl
@[simp] theorem clearStatus_src : (clearStatus s).src = s.src := rfl
@[simp] theorem clearStatus_dst : (clearStatus s).dst = s.dst := rfl
@[simp] theorem clearStatus_pay : (clearStatus s).pay = s.pay := rfl
@[simp] theorem clearStatus_freq : (clearStatus s).freq = s.freq := rfl
@[simp] theorem clearStatus_node : (clearStatus s).node = s.node := rfl
@[simp] theorem clearStatus_inq : (clearStatus s).inq = s.inq := rfl
@[simp] theorem clearStatus_code : (clearStatus s).code = s.code := rfl
@[simp] theorem clearStatus_srcLen : (clearStatus s).srcLen = s.srcLen := rfl
@[simp] theorem clearStatus_dstLen : (clearStatus s).dstLen = s.dstLen := rfl
@[simp] theorem clearStatus_bitLen : (clearStatus s).bitLen = s.bitLen := rfl
@[simp] theorem clearStatus_nodeCnt : (clearStatus s).nodeCnt = s.nodeCnt := rfl
@[simp] theorem clearStatus_srcPtr : (clearStatus s).srcPtr = s.srcPtr := rfl
@[simp] theorem clearStatus_dstPtr : (clearStatus s).dstPtr = s.dstPtr := rfl
@[simp] theorem clearStatus_tblSel : (clearStatus s).tblSel = s.tblSel := rfl
@[simp] theorem clearStatus_tblIdx : (clearStatus s).tblIdx = s.tblIdx := rfl
@[simp] theorem clearStatus_status : (clearStatus s).status = { s.status with done := false, err := .noError, ephase := .idle } := rfl
@[simp] theorem clearStatus_errInfo : (clearStatus s).errInfo = 0 := rfl
@[simp] theorem clearStatus_intEn : (clearStatus s).intEn = s.intEn := rfl
@[simp] theorem clearStatus_hidden : (clearStatus s).hidden = s.hidden := rfl
@[simp] theorem clearStatus_flight : (clearStatus s).flight = s.flight := rfl
@[simp] theorem clearStatus_unseen : (clearStatus s).unseen = s.unseen := rfl
@[simp] theorem clearStatus_host : (clearStatus s).host = s.host := rfl
@[simp] theorem clearStatus_replies : (clearStatus s).replies = s.replies := rfl
@[simp] theorem clearStatus_resetEra : (clearStatus s).resetEra = s.resetEra := rfl
@[simp] theorem clearStatus_cmdEra : (clearStatus s).cmdEra = s.cmdEra := rfl

/-! ### closeWindow -/

@[simp] theorem closeWindow_cfg (f : Flight) : (closeWindow f s).cfg = s.cfg := rfl
@[simp] theorem closeWindow_src (f : Flight) : (closeWindow f s).src = s.src := rfl
@[simp] theorem closeWindow_dst (f : Flight) : (closeWindow f s).dst = s.dst := rfl
@[simp] theorem closeWindow_pay (f : Flight) : (closeWindow f s).pay = s.pay := rfl
@[simp] theorem closeWindow_freq (f : Flight) : (closeWindow f s).freq = s.freq := rfl
@[simp] theorem closeWindow_node (f : Flight) : (closeWindow f s).node = s.node := rfl
@[simp] theorem closeWindow_inq (f : Flight) : (closeWindow f s).inq = s.inq := rfl
@[simp] theorem closeWindow_code (f : Flight) : (closeWindow f s).code = s.code := rfl
@[simp] theorem closeWindow_srcLen (f : Flight) : (closeWindow f s).srcLen = s.srcLen := rfl
@[simp] theorem closeWindow_dstLen (f : Flight) : (closeWindow f s).dstLen = s.dstLen := rfl
@[simp] theorem closeWindow_bitLen (f : Flight) : (closeWindow f s).bitLen = s.bitLen := rfl
@[simp] theorem closeWindow_nodeCnt (f : Flight) : (closeWindow f s).nodeCnt = s.nodeCnt := rfl
@[simp] theorem closeWindow_srcPtr (f : Flight) : (closeWindow f s).srcPtr = s.srcPtr := rfl
@[simp] theorem closeWindow_dstPtr (f : Flight) : (closeWindow f s).dstPtr = s.dstPtr := rfl
@[simp] theorem closeWindow_tblSel (f : Flight) : (closeWindow f s).tblSel = s.tblSel := rfl
@[simp] theorem closeWindow_tblIdx (f : Flight) : (closeWindow f s).tblIdx = s.tblIdx := rfl
@[simp] theorem closeWindow_status (f : Flight) : (closeWindow f s).status = f.final := rfl
@[simp] theorem closeWindow_errInfo (f : Flight) : (closeWindow f s).errInfo = f.info := rfl
@[simp] theorem closeWindow_intEn (f : Flight) : (closeWindow f s).intEn = s.intEn := rfl
@[simp] theorem closeWindow_hidden (f : Flight) : (closeWindow f s).hidden = s.hidden := rfl
@[simp] theorem closeWindow_flight (f : Flight) : (closeWindow f s).flight = none := rfl
@[simp] theorem closeWindow_unseen (f : Flight) : (closeWindow f s).unseen = s.unseen := rfl
@[simp] theorem closeWindow_host (f : Flight) : (closeWindow f s).host = s.host := rfl
@[simp] theorem closeWindow_replies (f : Flight) : (closeWindow f s).replies = s.replies := rfl
@[simp] theorem closeWindow_resetEra (f : Flight) : (closeWindow f s).resetEra = s.resetEra := rfl
@[simp] theorem closeWindow_cmdEra (f : Flight) : (closeWindow f s).cmdEra = s.cmdEra := rfl

/-! ### reply -/

@[simp] theorem reply_cfg (v : Word) : (reply v s).cfg = s.cfg := rfl
@[simp] theorem reply_src (v : Word) : (reply v s).src = s.src := rfl
@[simp] theorem reply_dst (v : Word) : (reply v s).dst = s.dst := rfl
@[simp] theorem reply_pay (v : Word) : (reply v s).pay = s.pay := rfl
@[simp] theorem reply_freq (v : Word) : (reply v s).freq = s.freq := rfl
@[simp] theorem reply_node (v : Word) : (reply v s).node = s.node := rfl
@[simp] theorem reply_inq (v : Word) : (reply v s).inq = s.inq := rfl
@[simp] theorem reply_code (v : Word) : (reply v s).code = s.code := rfl
@[simp] theorem reply_srcLen (v : Word) : (reply v s).srcLen = s.srcLen := rfl
@[simp] theorem reply_dstLen (v : Word) : (reply v s).dstLen = s.dstLen := rfl
@[simp] theorem reply_bitLen (v : Word) : (reply v s).bitLen = s.bitLen := rfl
@[simp] theorem reply_nodeCnt (v : Word) : (reply v s).nodeCnt = s.nodeCnt := rfl
@[simp] theorem reply_srcPtr (v : Word) : (reply v s).srcPtr = s.srcPtr := rfl
@[simp] theorem reply_dstPtr (v : Word) : (reply v s).dstPtr = s.dstPtr := rfl
@[simp] theorem reply_tblSel (v : Word) : (reply v s).tblSel = s.tblSel := rfl
@[simp] theorem reply_tblIdx (v : Word) : (reply v s).tblIdx = s.tblIdx := rfl
@[simp] theorem reply_status (v : Word) : (reply v s).status = s.status := rfl
@[simp] theorem reply_errInfo (v : Word) : (reply v s).errInfo = s.errInfo := rfl
@[simp] theorem reply_intEn (v : Word) : (reply v s).intEn = s.intEn := rfl
@[simp] theorem reply_hidden (v : Word) : (reply v s).hidden = s.hidden := rfl
@[simp] theorem reply_flight (v : Word) : (reply v s).flight = s.flight := rfl
@[simp] theorem reply_unseen (v : Word) : (reply v s).unseen = s.unseen := rfl
@[simp] theorem reply_host (v : Word) : (reply v s).host = s.host := rfl
@[simp] theorem reply_replies (v : Word) : (reply v s).replies = v :: s.replies := rfl
@[simp] theorem reply_resetEra (v : Word) : (reply v s).resetEra = s.resetEra := rfl
@[simp] theorem reply_cmdEra (v : Word) : (reply v s).cmdEra = s.cmdEra := rfl

/-! ### seeIdle -/

@[simp] theorem seeIdle_cfg : (seeIdle s).cfg = s.cfg := rfl
@[simp] theorem seeIdle_src : (seeIdle s).src = s.src := rfl
@[simp] theorem seeIdle_dst : (seeIdle s).dst = s.dst := rfl
@[simp] theorem seeIdle_pay : (seeIdle s).pay = s.pay := rfl
@[simp] theorem seeIdle_freq : (seeIdle s).freq = s.freq := rfl
@[simp] theorem seeIdle_node : (seeIdle s).node = s.node := rfl
@[simp] theorem seeIdle_inq : (seeIdle s).inq = s.inq := rfl
@[simp] theorem seeIdle_code : (seeIdle s).code = s.code := rfl
@[simp] theorem seeIdle_srcLen : (seeIdle s).srcLen = s.srcLen := rfl
@[simp] theorem seeIdle_dstLen : (seeIdle s).dstLen = s.dstLen := rfl
@[simp] theorem seeIdle_bitLen : (seeIdle s).bitLen = s.bitLen := rfl
@[simp] theorem seeIdle_nodeCnt : (seeIdle s).nodeCnt = s.nodeCnt := rfl
@[simp] theorem seeIdle_srcPtr : (seeIdle s).srcPtr = s.srcPtr := rfl
@[simp] theorem seeIdle_dstPtr : (seeIdle s).dstPtr = s.dstPtr := rfl
@[simp] theorem seeIdle_tblSel : (seeIdle s).tblSel = s.tblSel := rfl
@[simp] theorem seeIdle_tblIdx : (seeIdle s).tblIdx = s.tblIdx := rfl
@[simp] theorem seeIdle_status : (seeIdle s).status = s.status := rfl
@[simp] theorem seeIdle_errInfo : (seeIdle s).errInfo = s.errInfo := rfl
@[simp] theorem seeIdle_intEn : (seeIdle s).intEn = s.intEn := rfl
@[simp] theorem seeIdle_hidden : (seeIdle s).hidden = s.hidden := rfl
@[simp] theorem seeIdle_flight : (seeIdle s).flight = s.flight := rfl
@[simp] theorem seeIdle_unseen : (seeIdle s).unseen = false := rfl
@[simp] theorem seeIdle_host : (seeIdle s).host = s.host := rfl
@[simp] theorem seeIdle_replies : (seeIdle s).replies = s.replies := rfl
@[simp] theorem seeIdle_resetEra : (seeIdle s).resetEra = s.resetEra := rfl
@[simp] theorem seeIdle_cmdEra : (seeIdle s).cmdEra = s.cmdEra := rfl

/-! ### openWindow -/

@[simp] theorem openWindow_cfg (ps : List Phase) : (openWindow ps s).cfg = s.cfg := rfl
@[simp] theorem openWindow_src (ps : List Phase) : (openWindow ps s).src = s.src := rfl
@[simp] theorem openWindow_dst (ps : List Phase) : (openWindow ps s).dst = s.dst := rfl
@[simp] theorem openWindow_pay (ps : List Phase) : (openWindow ps s).pay = s.pay := rfl
@[simp] theorem openWindow_freq (ps : List Phase) : (openWindow ps s).freq = s.freq := rfl
@[simp] theorem openWindow_node (ps : List Phase) : (openWindow ps s).node = s.node := rfl
@[simp] theorem openWindow_inq (ps : List Phase) : (openWindow ps s).inq = s.inq := rfl
@[simp] theorem openWindow_code (ps : List Phase) : (openWindow ps s).code = s.code := rfl
@[simp] theorem openWindow_srcLen (ps : List Phase) : (openWindow ps s).srcLen = s.srcLen := rfl
@[simp] theorem openWindow_dstLen (ps : List Phase) : (openWindow ps s).dstLen = s.dstLen := rfl
@[simp] theorem openWindow_bitLen (ps : List Phase) : (openWindow ps s).bitLen = s.bitLen := rfl
@[simp] theorem openWindow_nodeCnt (ps : List Phase) : (openWindow ps s).nodeCnt = s.nodeCnt := rfl
@[simp] theorem openWindow_srcPtr (ps : List Phase) : (openWindow ps s).srcPtr = s.srcPtr := rfl
@[simp] theorem openWindow_dstPtr (ps : List Phase) : (openWindow ps s).dstPtr = s.dstPtr := rfl
@[simp] theorem openWindow_tblSel (ps : List Phase) : (openWindow ps s).tblSel = s.tblSel := rfl
@[simp] theorem openWindow_tblIdx (ps : List Phase) : (openWindow ps s).tblIdx = s.tblIdx := rfl
@[simp] theorem openWindow_status (ps : List Phase) : (openWindow ps s).status = ⟨true, false, .noError, ps.headD .idle, .idle⟩ := rfl
@[simp] theorem openWindow_errInfo (ps : List Phase) : (openWindow ps s).errInfo = 0 := rfl
@[simp] theorem openWindow_intEn (ps : List Phase) : (openWindow ps s).intEn = s.intEn := rfl
@[simp] theorem openWindow_hidden (ps : List Phase) : (openWindow ps s).hidden = s.hidden := rfl
@[simp] theorem openWindow_flight (ps : List Phase) : (openWindow ps s).flight = some ⟨Config.busyWindow s.cmdEra, shownPhases ps s.status, s.status, s.errInfo⟩ := rfl
@[simp] theorem openWindow_unseen (ps : List Phase) : (openWindow ps s).unseen = true := rfl
@[simp] theorem openWindow_host (ps : List Phase) : (openWindow ps s).host = s.host := rfl
@[simp] theorem openWindow_replies (ps : List Phase) : (openWindow ps s).replies = s.replies := rfl
@[simp] theorem openWindow_resetEra (ps : List Phase) : (openWindow ps s).resetEra = s.resetEra := rfl
@[simp] theorem openWindow_cmdEra (ps : List Phase) : (openWindow ps s).cmdEra = s.cmdEra := rfl

/-! ### resetCore: every field of the core as after reset, the host's own fields kept -/

@[simp] theorem resetCore_cfg : (resetCore s).cfg = s.cfg := rfl
@[simp] theorem resetCore_src : (resetCore s).src = (State.resetOf s.cfg).src := rfl
@[simp] theorem resetCore_dst : (resetCore s).dst = (State.resetOf s.cfg).dst := rfl
@[simp] theorem resetCore_pay : (resetCore s).pay = (State.resetOf s.cfg).pay := rfl
@[simp] theorem resetCore_freq : (resetCore s).freq = (State.resetOf s.cfg).freq := rfl
@[simp] theorem resetCore_node : (resetCore s).node = (State.resetOf s.cfg).node := rfl
@[simp] theorem resetCore_inq : (resetCore s).inq = (State.resetOf s.cfg).inq := rfl
@[simp] theorem resetCore_code : (resetCore s).code = (State.resetOf s.cfg).code := rfl
@[simp] theorem resetCore_srcLen : (resetCore s).srcLen = (State.resetOf s.cfg).srcLen := rfl
@[simp] theorem resetCore_dstLen : (resetCore s).dstLen = (State.resetOf s.cfg).dstLen := rfl
@[simp] theorem resetCore_bitLen : (resetCore s).bitLen = (State.resetOf s.cfg).bitLen := rfl
@[simp] theorem resetCore_nodeCnt : (resetCore s).nodeCnt = (State.resetOf s.cfg).nodeCnt := rfl
@[simp] theorem resetCore_srcPtr : (resetCore s).srcPtr = (State.resetOf s.cfg).srcPtr := rfl
@[simp] theorem resetCore_dstPtr : (resetCore s).dstPtr = (State.resetOf s.cfg).dstPtr := rfl
@[simp] theorem resetCore_tblSel : (resetCore s).tblSel = (State.resetOf s.cfg).tblSel := rfl
@[simp] theorem resetCore_tblIdx : (resetCore s).tblIdx = (State.resetOf s.cfg).tblIdx := rfl
@[simp] theorem resetCore_status : (resetCore s).status = (State.resetOf s.cfg).status := rfl
@[simp] theorem resetCore_errInfo : (resetCore s).errInfo = (State.resetOf s.cfg).errInfo := rfl
@[simp] theorem resetCore_intEn : (resetCore s).intEn = (State.resetOf s.cfg).intEn := rfl
@[simp] theorem resetCore_hidden : (resetCore s).hidden = (State.resetOf s.cfg).hidden := rfl
@[simp] theorem resetCore_flight : (resetCore s).flight = (State.resetOf s.cfg).flight := rfl
@[simp] theorem resetCore_unseen : (resetCore s).unseen = (State.resetOf s.cfg).unseen := rfl
@[simp] theorem resetCore_host : (resetCore s).host = s.host := rfl
@[simp] theorem resetCore_replies : (resetCore s).replies = s.replies := rfl
@[simp] theorem resetCore_resetEra : (resetCore s).resetEra = s.resetEra + 1 := rfl
@[simp] theorem resetCore_cmdEra : (resetCore s).cmdEra = s.cmdEra + 1 := rfl

end Updates

end Sys2Proof.Machine
end

