-- ==== Sys2Proof/Laws/Memory.lean ====
section
/-! SUPPORT. The byte memories: read after write, and every operation keeps the canonical form. -/

namespace Sys2Proof.Machine.Memory

theorem lookup_store_same (m : Memory) (a : Nat) (v : Byte) : (m.store a v).lookup a = some v := by
  induction m with
  | nil => simp [store, lookup]
  | cons c m ih =>
    obtain ⟨b, w⟩ := c
    simp only [store]
    split
    · simp [lookup]
    · split
      · simp [lookup]
      · next h => simp [lookup, h, ih]

theorem lookup_store_ne (m : Memory) {a x : Nat} (v : Byte) (h : x ≠ a) : (m.store a v).lookup x = m.lookup x := by
  induction m with
  | nil => simp [store, lookup, h]
  | cons c m ih =>
    obtain ⟨b, w⟩ := c
    simp only [store]
    split
    · simp [lookup, h]
    · split
      · next hab => subst hab; simp [lookup, h]
      · simp [lookup, ih]

/-- Storing a run of bytes: inside it the bytes, outside it what was there. -/
theorem lookup_storeList (m : Memory) (a : Nat) (vs : List Byte) (x : Nat) :
    (m.storeList a vs).lookup x = if a ≤ x ∧ x < a + vs.length then vs[x - a]? else m.lookup x := by
  induction vs generalizing m a with
  | nil => simp [storeList]
  | cons v vs ih =>
    simp only [storeList, ih, List.length_cons]
    by_cases hx : x = a
    · subst hx
      have h1 : ¬ (x + 1 ≤ x ∧ x < x + 1 + vs.length) := by omega
      have h2 : x ≤ x ∧ x < x + (vs.length + 1) := by omega
      rw [if_neg h1, if_pos h2]; simp [lookup_store_same]
    · by_cases hin : a + 1 ≤ x ∧ x < a + 1 + vs.length
      · have h2 : a ≤ x ∧ x < a + (vs.length + 1) := by omega
        have h3 : x - a = (x - (a + 1)) + 1 := by omega
        rw [if_pos hin, if_pos h2, h3, List.getElem?_cons_succ]
      · have h2 : ¬ (a ≤ x ∧ x < a + (vs.length + 1)) := by omega
        rw [if_neg hin, if_neg h2, lookup_store_ne _ _ hx]

/-- The head of a stored memory is the head or the stored cell. -/
theorem store_head (b : Nat) (w : Byte) (m : Memory) (a : Nat) (v : Byte) (h : b < a)
    (hm : wf ((b, w) :: m) = true) (ih : wf (store m a v) = true) : wf ((b, w) :: store m a v) = true := by
  cases m with
  | nil => simp [store, wf, h]
  | cons c m =>
    obtain ⟨d, x⟩ := c
    simp only [wf, Bool.and_eq_true, decide_eq_true_eq] at hm
    simp only [store] at ih ⊢
    split at ih
    · next had => simp [wf, h, had, hm.2]
    · split at ih
      · next _ had => subst had; simp [wf, h, ih]
      · next h1 h2 =>
        rw [if_neg h1, if_neg h2]
        simp only [wf, hm.1, decide_true, Bool.true_and]
        exact ih

theorem wf_tail {c : Host.Cell} {m : Memory} (h : wf (c :: m) = true) : wf m = true := by
  cases m with
  | nil => rfl
  | cons d m => simp only [wf, Bool.and_eq_true] at h; exact h.2

theorem wf_store (m : Memory) (a : Nat) (v : Byte) (h : wf m = true) : wf (m.store a v) = true := by
  induction m with
  | nil => rfl
  | cons c m ih =>
    obtain ⟨b, w⟩ := c
    simp only [store]
    split
    · next hab => simp [wf, hab, h]
    · split
      · next hab =>
        subst hab
        cases m with
        | nil => rfl
        | cons d m => simpa [wf] using h
      · exact store_head b w m a v (by omega) h (ih (wf_tail h))

theorem wf_storeList (m : Memory) (a : Nat) (vs : List Byte) (h : wf m = true) : wf (m.storeList a vs) = true := by
  induction vs generalizing m a with
  | nil => exact h
  | cons v vs ih => exact ih _ _ (wf_store m a v h)

/-- A stored memory lists the old cells and the new one, no others. -/
theorem mem_store (m : Memory) (a : Nat) (v : Byte) (c : Host.Cell) (h : c ∈ m.store a v) : c = (a, v) ∨ c ∈ m := by
  induction m with
  | nil => simpa [store] using h
  | cons d m ih =>
    obtain ⟨b, w⟩ := d
    simp only [store] at h
    split at h
    · simpa using h
    · split at h
      · rcases List.mem_cons.1 h with h | h
        · exact .inl h
        · exact .inr (List.mem_cons_of_mem _ h)
      · rcases List.mem_cons.1 h with h | h
        · exact .inr (h ▸ List.mem_cons_self)
        · rcases ih h with h | h
          · exact .inl h
          · exact .inr (List.mem_cons_of_mem _ h)

/-- A store below the capacity keeps a memory canonical and within it. -/
theorem ok_store {cap : Nat} {m : Memory} {a : Nat} (v : Byte) (h : m.ok cap = true) (ha : a < cap) :
    (m.store a v).ok cap = true := by
  simp only [ok, Bool.and_eq_true, List.all_eq_true, decide_eq_true_eq] at h ⊢
  refine ⟨wf_store m a v h.1, fun c hc => ?_⟩
  rcases mem_store m a v c hc with rfl | hc
  · exact ha
  · exact h.2 c hc

/-- A run of stores below the capacity keeps a memory canonical and within it. -/
theorem ok_storeList {cap : Nat} {m : Memory} {a : Nat} {vs : List Byte} (h : m.ok cap = true)
    (ha : a + vs.length ≤ cap) : (m.storeList a vs).ok cap = true := by
  induction vs generalizing m a with
  | nil => exact h
  | cons v vs ih =>
    simp only [List.length_cons] at ha
    exact ih (ok_store v h (by omega)) (by omega)

theorem ok_nil (cap : Nat) : Memory.ok cap [] = true := rfl

end Sys2Proof.Machine.Memory
end

