-- ==== Sys2Proof/Laws/PerInstr.lean ====
section
/-! SUPPORT. Family CommandWord, about a command as syntax: its word has `rsv` = 0 and an assigned opcode (R60, R62). -/

namespace Sys2Proof.Laws.CommandWord

/-- The command's word is one the decoder accepts as well-formed. -/
def Statement (i : Instr) : Prop := i.wf = true ∧ commandWordWf (encode i) = true

theorem nop : Statement .nop := ⟨rfl, by decide⟩
theorem count : Statement .count := ⟨rfl, by decide⟩
theorem build : Statement .build := ⟨rfl, by decide⟩
theorem walk : Statement .walk := ⟨rfl, by decide⟩
theorem pack : Statement .pack := ⟨rfl, by decide⟩
theorem frame : Statement .frame := ⟨rfl, by decide⟩
theorem parse : Statement .parse := ⟨rfl, by decide⟩
theorem unpack : Statement .unpack := ⟨rfl, by decide⟩
theorem compress : Statement .compress := ⟨rfl, by decide⟩
theorem decompress : Statement .decompress := ⟨rfl, by decide⟩
theorem clrst : Statement .clrst := ⟨rfl, by decide⟩
theorem srst : Statement .srst := ⟨rfl, by decide⟩

end Sys2Proof.Laws.CommandWord
end

