-- ==== Sys2Proof/Laws/Units.lean ====
section
/-! SUPPORT. What each shared operation can do, said once: running units, a working command, the passing of time, one
micro-step of the packer, the emitter. -/

namespace Sys2Proof.Machine

/-- A unit that ends well hands its state to the next unit. -/
theorem runUnits_done {p : Phase} {u : State → UnitResult} {rest : List (Phase × (State → UnitResult))} {s t : State}
    (h : u (enterPhase p s) = .done t) : runUnits ((p, u) :: rest) s = runUnits rest t := by
  simp [runUnits, h]

/-- A unit that raises ends the command in its phase (R205). -/
theorem runUnits_raised {p : Phase} {u : State → UnitResult} {rest : List (Phase × (State → UnitResult))} {s t : State}
    {e : ErrCode} {w : Word} (h : u (enterPhase p s) = .raised e w t) :
    runUnits ((p, u) :: rest) s = .next (releaseHidden (raise e w p t)) := by
  simp [runUnits, h]

/-- A working command is ignored (R91), or it runs its units from the accepted state (R92). -/
theorem runWorking_cases (p : Phase) (c : Bool) (us : List (Phase × (State → UnitResult))) (s : State) :
    (s.ready = false ∧ runWorking p c us s = .next s) ∨
      (s.ready = true ∧ runWorking p c us s = runUnits us (accept p c s)) := by
  cases h : s.ready <;> simp [runWorking, h]

/-- A property that every unit and every way of ending keeps holds of what the units leave. -/
theorem runUnits_keeps {P : State → Prop} {us : List (Phase × (State → UnitResult))}
    (henter : ∀ p s, P s → P (enterPhase p s)) (hcomplete : ∀ s, P s → P (complete s))
    (hraise : ∀ e w p s, P s → P (raise e w p s)) (hrelease : ∀ s, P s → P (releaseHidden s))
    (hunit : ∀ pu ∈ us, ∀ s, P s → match pu.2 s with | .done t => P t | .raised _ _ t => P t | .stuck _ => True)
    {s t : State} (hs : P s) (h : runUnits us s = .next t) : P t := by
  induction us generalizing s with
  | nil => simp only [runUnits, Host.Outcome.next.injEq] at h; exact h ▸ hrelease _ (hcomplete s hs)
  | cons pu rest ih =>
    obtain ⟨p, u⟩ := pu
    have hu := hunit (p, u) List.mem_cons_self (enterPhase p s) (henter p s hs)
    dsimp only at hu
    simp only [runUnits] at h
    split at h
    · next v hv =>
      rw [hv] at hu
      exact ih (fun pu hpu => hunit pu (List.mem_cons_of_mem _ hpu)) hu h
    · next e w v hv =>
      rw [hv] at hu
      simp only [Host.Outcome.next.injEq] at h
      exact h ▸ hrelease _ (hraise e w p v hu)
    · cases h

/-- Time passes: nothing changes outside a BUSY window; in it the command completes, or it stays BUSY with one transaction
less to come. -/
theorem tick_cases (s : State) :
    (s.flight = none ∧ tick s = s) ∨
      (∃ f, s.flight = some f ∧ f.left = 0 ∧ tick s = closeWindow f s) ∨
      (∃ f n ps, s.flight = some f ∧ f.left = n + 1 ∧ ps = advancePhases (Config.phaseAdvance s.cmdEra n) f.phases ∧
        tick s =
          { s with
            status := { s.status with phase := ps.headD s.status.phase }
            flight := some { f with left := n, phases := ps } }) := by
  rcases hf : s.flight with _ | f
  · exact .inl ⟨rfl, by simp [tick, hf]⟩
  · rcases hl : f.left with _ | n
    · exact .inr (.inl ⟨f, rfl, hl, by simp [tick, hf, hl]⟩)
    · exact .inr (.inr ⟨f, n, _, rfl, hl, rfl, by simp [tick, hf, hl]⟩)

/-- A transaction is refused outside the interface, refused where R236 does not allow it, or has its effect. -/
theorem transaction_cases (off : Nat) (op : HostOp) (s : State) (o : Host.Outcome State Fault Refusal) :
    (transactionWf 32 off = false ∧ transaction off op s o = .refused (.outsideInterface 32 off)) ∨
      (transactionWf 32 off = true ∧ s.unseen = true ∧ allowedUnseen op = false ∧
        transaction off op s o = .refused (.busyAccess off)) ∨
      (transactionWf 32 off = true ∧ (s.unseen = false ∨ allowedUnseen op = true) ∧ transaction off op s o = o) := by
  cases hw : transactionWf 32 off <;> cases hu : s.unseen <;> cases ha : allowedUnseen op <;> simp [transaction, hw, hu, ha]

/-- Moving on never leaves the list of phases empty, and shows only its members. -/
theorem advancePhases_suffix (n : Nat) (ps : List Phase) :
    advancePhases n ps <:+ ps ∧ (ps ≠ [] → advancePhases n ps ≠ []) := by
  induction n generalizing ps with
  | zero => cases ps <;> simp [advancePhases]
  | succ n ih =>
    match ps with
    | [] => simp [advancePhases]
    | [p] => simp [advancePhases]
    | p :: q :: qs =>
      have h := ih (q :: qs)
      exact ⟨h.1.trans (List.suffix_cons p _), fun _ => h.2 (by simp)⟩

/-- EMIT stores one byte below N_MAX, or raises CapacityError (R173). -/
theorem emit_cases (nMax j : Nat) (u : Unpacker) (b : Byte) :
    (u.upO < nMax ∧ emit nMax j u b = .fine { u with upO := u.upO + 1, dst := Memory.store u.dst u.upO b }) ∨
      (nMax ≤ u.upO ∧ emit nMax j u b = .raised .capacity j u) := by
  by_cases h : nMax ≤ u.upO
  · exact .inr ⟨h, by simp [emit, h]⟩
  · exact .inl ⟨by omega, by simp [emit]; omega⟩

/-- One appended bit counts once, whatever else it does (R154). -/
theorem appendBit_bitLen {cap off : Nat} {p q : Packer} {b : Bool} (h : appendBit cap off p b = .fine q) :
    q.bitLen = p.bitLen + 1 := by
  simp only [appendBit] at h
  split at h
  · split at h
    · cases h
    · cases h; rfl
  · cases h; rfl

/-- Appending a code's bits adds their number to BITLEN (R154, R159 (a)). -/
theorem appendBits_bitLen {cap off : Nat} {bs : List Bool} {p q : Packer} (h : appendBits cap off bs p = .fine q) :
    q.bitLen = p.bitLen + bs.length := by
  induction bs generalizing p with
  | nil => simp only [appendBits] at h; cases h; rfl
  | cons b bs ih =>
    simp only [appendBits] at h
    split at h
    · next r hr => rw [ih h, appendBit_bitLen hr, List.length_cons]; omega
    · cases h

/-- A code's bits are as many as its length (R78). -/
@[simp] theorem Code.bits_length (c : Code) : c.bits.length = c.len.toNat := by simp [Code.bits]

@[simp] theorem atSym_setSym_same {α : Type} (v : Vector α 256) (b : Byte) (x : α) : atSym (setSym v b x) b = x := by
  simp [atSym, setSym]

theorem atSym_setSym_ne {α : Type} (v : Vector α 256) {a b : Byte} (x : α) (h : a ≠ b) :
    atSym (setSym v b x) a = atSym v a := by
  have hn : b.toNat ≠ a.toNat := fun e => h (BitVec.eq_of_toNat_eq e.symm)
  simp [atSym, setSym, hn]

@[simp] theorem atSym_replicate {α : Type} (x : α) (b : Byte) : atSym (Vector.replicate 256 x) b = x := by
  simp [atSym]

/-- Every symbol is listed once. -/
theorem symbols_complete (b : Byte) : b ∈ symbols := by
  simp only [symbols, List.mem_map, List.mem_range]
  exact ⟨b.toNat, b.isLt, by simp⟩

/-- A table's entries, symbol by symbol. -/
theorem symbols_map_atSym {α : Type} (f : Vector α 256) : symbols.map (atSym f) = f.toList := by
  apply List.ext_getElem
  · simp [symbols]
  · intro i h₁ h₂
    have hi : i < 256 := by simpa [symbols] using h₁
    simp [symbols, atSym, Nat.mod_eq_of_lt hi]

/-- The present symbols are those whose entry is not 0. -/
theorem presentSymbols_eq_filter (f : Vector Word 256) : presentSymbols f = symbols.filter fun b => atSym f b != 0 := by
  have h : ∀ bs : List Byte, ((bs.zip (bs.map (atSym f))).filter fun e => e.2 != 0).map Prod.fst =
      bs.filter fun b => atSym f b != 0 := by
    intro bs
    induction bs with
    | nil => rfl
    | cons b bs ih =>
      rw [List.map_cons, List.zip_cons_cons, List.filter_cons, List.filter_cons]
      dsimp only
      split
      · exact congrArg (b :: ·) ih
      · exact ih
  rw [presentSymbols, ← symbols_map_atSym, h]

theorem mem_presentSymbols {f : Vector Word 256} {b : Byte} : b ∈ presentSymbols f ↔ atSym f b ≠ 0 := by
  simp [presentSymbols_eq_filter, symbols_complete]

/-- `Σ_s FREQ[s]`, symbol by symbol. -/
theorem freqTotal_eq_sum (f : Vector Word 256) : freqTotal f = (symbols.map fun b => (atSym f b).toNat).sum := by
  rw [freqTotal, ← symbols_map_atSym, List.map_map]; rfl

end Sys2Proof.Machine
end

