-- ==== Sys2Proof/Tests/Slice0.lean ====
section
/-! SUPPORT. The model's own tests: the decoder and the WellFormed smoke, single steps on the spec's vectors (95 V1..V87,
named in each comment), and, below, the witnesses: for each statement with hypotheses a concrete state that meets them. -/

open Sys2Proof Sys2Proof.Machine

namespace Sys2Proof.Tests

/- One theorem after another: the kernel evaluates each test, and no thread waits for another. -/
set_option Elab.async false

/-! ## Helpers -/

/-- The state an outcome leaves (the reset state where it leaves none). -/
def after : Host.Outcome State Fault Refusal → State
  | .next t => t
  | _ => State.reset

def isNext : Host.Outcome State Fault Refusal → Bool
  | .next _ => true
  | _ => false

theorem next_after {o : Host.Outcome State Fault Refusal} (h : isNext o = true) : o = .next (after o) := by
  cases o <;> simp_all [isNext, after]

/-- The reset state with SRC holding `bs` and SRC_LEN their number. -/
def loaded (bs : List Byte) : State :=
  { State.reset with src := Memory.storeList [] 0 bs, srcLen := BitVec.ofNat 32 bs.length }

/-- A small table: the frequencies given, 0 elsewhere. -/
def table (es : List (Byte × Word)) : Vector Word 256 := loadEntries es

def dstList (s : State) : List Byte := (List.range s.dstLen.toNat).map s.dstByte

/-- FC's "aaaabbbccd" (95 V1). -/
def v1In : List Byte := [0x61, 0x61, 0x61, 0x61, 0x62, 0x62, 0x62, 0x63, 0x63, 0x64]

/-- V1's container. -/
def v1Out : List Byte :=
  [0x00, 0x04, 0x61, 0x00, 0x00, 0x00, 0x04, 0x62, 0x00, 0x00, 0x00, 0x03, 0x63, 0x00, 0x00, 0x00, 0x02, 0x64, 0x00,
    0x00, 0x00, 0x01, 0x00, 0x00, 0x00, 0x13, 0x0A, 0xBF, 0xC0]

/-- V1's tree (42 R128). -/
def v1Tree : List Node :=
  [.leaf 0x61 4, .leaf 0x62 3, .leaf 0x63 2, .leaf 0x64 1, .internal 3 3 2, .internal 6 1 4, .internal 10 0 5]

/-- V1's code table (43 R141). -/
def v1Codes : Vector (Option Code) 256 :=
  setSym (setSym (setSym (setSym emptyCodes 0x61 (some ⟨1, 0b0⟩)) 0x62 (some ⟨2, 0b10⟩)) 0x63 (some ⟨3, 0b111⟩)) 0x64
    (some ⟨3, 0b110⟩)

/-! ## Decoder and WellFormed -/

/-- The words of R62's table, bit by bit. -/
theorem test_decode_words :
    decode (BitVec.ofNat 32 0b00000000000000000000000000000000) = .instr .nop ∧
    decode (BitVec.ofNat 32 0b00000000000000000000000000000001) = .instr .count ∧
    decode (BitVec.ofNat 32 0b00000000000000000000000000000010) = .instr .build ∧
    decode (BitVec.ofNat 32 0b00000000000000000000000000000011) = .instr .walk ∧
    decode (BitVec.ofNat 32 0b00000000000000000000000000000100) = .instr .pack ∧
    decode (BitVec.ofNat 32 0b00000000000000000000000000000101) = .instr .frame ∧
    decode (BitVec.ofNat 32 0b00000000000000000000000000000110) = .instr .parse ∧
    decode (BitVec.ofNat 32 0b00000000000000000000000000000111) = .instr .unpack ∧
    decode (BitVec.ofNat 32 0b00000000000000000000000000001000) = .instr .compress ∧
    decode (BitVec.ofNat 32 0b00000000000000000000000000001001) = .instr .decompress ∧
    decode (BitVec.ofNat 32 0b00000000000000000000000000001010) = .instr .clrst ∧
    decode (BitVec.ofNat 32 0b00000000000000000000000000001111) = .instr .srst := by decide

/-- R63: opcodes 0xB..0xE; V82: 0x18 has op 8 and rsv ≠ 0. -/
theorem test_decode_rejects :
    decode 0x0B#32 = .rejected .reservedOpcode ∧ decode 0x0E#32 = .rejected .reservedOpcode ∧
    decode 0x18#32 = .rejected .reservedBits ∧ decode 0x80000000#32 = .rejected .reservedBits := by decide

theorem test_decodeTableWord :
    decodeTableWord 32 8 = some .compress ∧ decodeTableWord 8 15 = some .srst ∧ decodeTableWord 32 0xB = none ∧
    decodeTableWord 64 (2 ^ 32) = none := by decide

/-- Each check of WellFormed refuses an ill-formed term. -/
theorem test_wellFormed_smoke :
    reservedBitsZero 0x18#32 = false ∧ opcodeAssigned 0x0C#32 = false ∧ commandWordWf 0x10#32 = false ∧
    commandWordWf 0x0D#32 = false ∧ transactionWf 16 0 = false ∧ transactionWf 32 2 = false ∧
    transactionWf 32 0x100 = false ∧ transactionWf 32 0xFC = true ∧ Instr.wf .nop = true := by decide

/-- Every command word written to CMD right after reset is run by the next step. -/
theorem test_withFetchWord_runs :
    ([0, 1, 2, 3, 4, 5, 6, 7, 8, 9, 10, 15].all fun w => isNext (step (State.reset.withFetchWord 32 w))) = true := by
  decide +kernel

/-! ## Commands, one step each -/

/-- V20. -/
theorem test_count_v1 :
    ([0x61, 0x62, 0x63, 0x64, 0x65].map fun b => atSym (after (exec .count (loaded v1In))).freq b) = [4, 3, 2, 1, 0] := by
  decide +kernel

/-- V22: STATUS = 0x00001042, ERR_INFO = 0x00010000, FREQ kept. -/
theorem test_count_too_long :
    let t := after (exec .count { State.reset with srcLen := 65537, freq := table [(0x61, 4)] })
    t.status.word = 0x00001042#32 ∧ t.errInfo = 0x00010000#32 ∧ atSym t.freq 0x61 = 4 := by decide +kernel

/-- R128's trace. -/
theorem test_build_v1 :
    (after (exec .build { State.reset with freq := table [(0x61, 4), (0x62, 3), (0x63, 2), (0x64, 1)] })).node = v1Tree := by
  decide +kernel

/-- V9: the third tie goes to the lower index; NODE_CNT = 7, INQ holds the root. -/
theorem test_build_v9 :
    let t := after (exec .build { State.reset with freq := table [(0x69, 4), (0x6D, 1), (0x70, 2), (0x73, 4)] })
    t.node.drop 4 = [.internal 3 1 2, .internal 7 4 0, .internal 11 3 5] ∧ t.nodeCnt = 7 ∧ t.inq = [6] := by
  decide +kernel

/-- R141's example: 61 "0", 62 "10", 63 "111", 64 "110". -/
theorem test_walk_v1 :
    let t := after (exec .walk { State.reset with node := v1Tree, nodeCnt := 7 })
    t.codeBits 0x61 = [false] ∧ t.codeBits 0x62 = [true, false] ∧ t.codeBits 0x63 = [true, true, true] ∧
      t.codeBits 0x64 = [true, true, false] ∧ t.hasCode 0x65 = false := by decide +kernel

/-- V31: the single leaf's code; V32: a stale entry is cleared. -/
theorem test_walk_single :
    let t := after (exec .walk { State.reset with node := [.leaf 0x61 1], nodeCnt := 1, code := v1Codes })
    atSym t.code 0x61 = some ⟨1, 0⟩ ∧ t.hasCode 0x62 = false := by decide +kernel

/-- V1: BITLEN = 19, PAY = 0A BF C0. -/
theorem test_pack_v1 :
    let t := after (exec .pack { loaded v1In with code := v1Codes })
    t.bitLen = 19 ∧ t.payBytes = [0x0A, 0xBF, 0xC0] := by decide +kernel

/-- V43: ConfigurationError, STATUS = 0x00004032, ERR_INFO = 1, BITLEN = 0. -/
theorem test_pack_uncoded :
    let t := after (exec .pack { loaded [0x61, 0x65] with code := v1Codes, bitLen := 7 })
    t.status.word = 0x00004032#32 ∧ t.errInfo = 1 ∧ t.bitLen = 0 := by decide +kernel

/-- R181's example. -/
theorem test_frame_v1 :
    dstList (after (exec .frame { State.reset with
      freq := table [(0x61, 4), (0x62, 3), (0x63, 2), (0x64, 1)], bitLen := 19
      pay := [(0, 0x0A), (1, 0xBF), (2, 0xC0)] })) = v1Out := by decide +kernel

/-- V71: FRAME of the reset state. -/
theorem test_frame_reset : dstList (after (exec .frame State.reset)) = [0, 0, 0, 0, 0, 0] := by decide +kernel

/-- R186's example. -/
theorem test_parse_v1 :
    let t := after (exec .parse (loaded v1Out))
    t.bitLen = 19 ∧ t.payBytes = [0x0A, 0xBF, 0xC0] ∧ t.kView = 4 ∧ atSym t.freq 0x62 = 3 := by decide +kernel

/-- V69: the duplicate is reported before the missing payload: STATUS = 0x00006022, ERR_INFO = 7. -/
theorem test_parse_priority :
    let t := after (exec .parse (loaded [0, 2, 0x61, 0, 0, 0, 1, 0x61, 0, 0, 0, 1, 0, 0, 0, 2]))
    t.status.word = 0x00006022#32 ∧ t.errInfo = 7 ∧ t.kView = 0 := by decide +kernel

/-- R167's example. -/
theorem test_unpack_v1 :
    dstList (after (exec .unpack { State.reset with
      node := v1Tree, nodeCnt := 7, bitLen := 19, pay := [(0, 0x0A), (1, 0xBF), (2, 0xC0)] })) = v1In := by
  decide +kernel

/-- R176 (d), V50: STATUS = 0x00007012, ERR_INFO = 18, DST_LEN = 0. -/
theorem test_unpack_mid_code :
    let t := after (exec .unpack { State.reset with
      node := v1Tree, nodeCnt := 7, bitLen := 18, pay := [(0, 0x0A), (1, 0xBF), (2, 0xC0)], dstLen := 5 })
    t.status.word = 0x00007012#32 ∧ t.errInfo = 18 ∧ t.dstLen = 0 := by decide +kernel

/-- V1. -/
theorem test_compress_v1 :
    let t := after (exec .compress (loaded v1In))
    dstList t = v1Out ∧ t.status.word = 0x00000002#32 ∧ t.nodeCnt = 7 := by decide +kernel

/-- V13: SRC_LEN = 65537. -/
theorem test_compress_too_long :
    let t := after (exec .compress { State.reset with srcLen := 65537, dstLen := 9 })
    t.status.word = 0x00001042#32 ∧ t.errInfo = 65536 ∧ t.dstLen = 0 := by decide +kernel

/-- R101's example. -/
theorem test_decompress_v1 :
    let t := after (exec .decompress (loaded v1Out))
    dstList t = v1In ∧ t.status.word = 0x00000002#32 := by decide +kernel

/-- V60: the truncated payload: STATUS = 0x00006012, ERR_INFO = 28, K = 0. -/
theorem test_decompress_truncated :
    let t := after (exec .decompress (loaded (v1Out.take 28)))
    t.status.word = 0x00006012#32 ∧ t.errInfo = 28 ∧ t.dstLen = 0 ∧ t.kView = 0 := by decide +kernel

/-- R96's example: STATUS = 0x00007012 to 0. -/
theorem test_clrst :
    let t := after (exec .clrst { State.reset with status := Status.failed .corruptContainer .unpack, errInfo := 18 })
    t.status.word = 0 ∧ t.errInfo = 0 := by decide +kernel

/-- V85. -/
theorem test_srst :
    let t := after (exec .srst { loaded v1In with status := Status.finished, intEn := 3, srcPtr := 10 })
    t.status.word = 0 ∧ t.srcLen = 0 ∧ t.intEn = 0 ∧ t.srcPtr = 0 ∧ t.src = [] := by decide +kernel

/-- V81: NOP keeps DONE. -/
theorem test_nop : (after (exec .nop { State.reset with status := Status.finished })).status.word = 0x00000002#32 := by
  decide +kernel

/-- V82: an illegal word from reset. -/
theorem test_illegal_word :
    let t := after (step { State.reset with host := [.write 0x04 0x0000000B#32] })
    t.status.word = 0x00000052#32 ∧ t.errInfo = 0x0000000B#32 := ⟨by decide +kernel, by decide +kernel⟩

/-- V83: ignored while the error is latched. -/
theorem test_latched_error_ignores :
    let s := { State.reset with status := Status.failed .illegalCommand .idle, errInfo := 0xB }
    step { s with host := [.write 0x04 0x00000008#32] } = .next s ∧
      step { s with host := [.write 0x04 0x0000000C#32] } = .next s := ⟨rfl, rfl⟩

/-! ## Host transactions -/

/-- V1's read-outs of NODE[4] and NODE[3] (R128), and of CODE[0x63] (R141). -/
theorem test_table_port :
    let s := { State.reset with node := v1Tree, nodeCnt := 7, code := v1Codes }
    { s with tblSel := 1, tblIdx := 9 }.tableRead = 0x80000602#32 ∧
    { s with tblSel := 1, tblIdx := 7 }.tableRead = 0x01900000#32 ∧
    { s with tblSel := 2, tblIdx := 1584 }.tableRead = 0x80000003#32 ∧
    { s with tblSel := 2, tblIdx := 1585 }.tableRead = 0x00000007#32 :=
  ⟨by decide +kernel, by decide +kernel, by decide +kernel, by decide +kernel⟩

/-- V87: the SRC_DATA port at BUF_BYTES, and bits 31:8 of a write ignored. -/
theorem test_source_port :
    (let t := after (step { State.reset with host := [.write 0x2C 0x55#32], srcPtr := 66822 })
     t.src = [] ∧ t.srcPtr = 66822) ∧
    (after (step { State.reset with host := [.write 0x2C 0x12345678#32] })).src = [(0, 0x78)] := by decide +kernel

/-- V80: reads from reset. -/
theorem test_reads_from_reset :
    (([0x00, 0x08, 0x1C, 0x04, 0x44].map fun off => (after (step { State.reset with host := [.read off] })).replies)) =
      [[0x48554631#32], [0], [0], [0], [0]] := by decide +kernel

/-- The window of a running COMPRESS: BUSY with the first phase, STATUS = 0x00000101 (95 section 0). -/
theorem test_busy_status :
    (after (step { loaded v1In with host := [.write 0x04 0x00000008#32] })).status.word = 0x00000101#32 := by
  decide +kernel

/-- P2: the script of LOADSRC 61 62 63 (R81). -/
theorem test_script_loadSrc :
    Script.loadSrc [0x61, 0x62, 0x63] =
      [.write 0x28 0#32, .write 0x2C 0x61#32, .write 0x2C 0x62#32, .write 0x2C 0x63#32, .write 0x14 3#32] := by decide

/-! ## Witnesses: concrete states that meet the hypotheses of the statements

`ab` is a core that has counted, built, walked and packed "ab"; `one` is the same for "A". The other states are built from
these and from the reset state. -/

def ab : State :=
  { State.reset with
    src := [(0, 0x61), (1, 0x62)], srcLen := 2, freq := table [(0x61, 1), (0x62, 1)]
    node := [.leaf 0x61 1, .leaf 0x62 1, .internal 2 0 1], nodeCnt := 3, inq := [2]
    code := setSym (setSym emptyCodes 0x61 (some ⟨1, 0⟩)) 0x62 (some ⟨1, 1⟩), bitLen := 2, pay := [(0, 0x40)] }

def one : State :=
  { State.reset with
    src := [(0, 0x41)], srcLen := 1, freq := table [(0x41, 1)], node := [.leaf 0x41 1], nodeCnt := 1, inq := [0]
    code := setSym emptyCodes 0x41 (some ⟨1, 0⟩), bitLen := 1, pay := [(0, 0x00)] }

/-- A core with the container "ab" compresses to in SRC. -/
def abIn : State := loaded [0, 2, 0x61, 0, 0, 0, 1, 0x62, 0, 0, 0, 1, 0, 0, 0, 2, 0x40]

/-- A core inside the BUSY window of a command. -/
def busyState : State :=
  { State.reset with
    status := ⟨true, false, .noError, .count, .idle⟩, unseen := true
    flight := some ⟨1, [.count], Status.finished, 0⟩ }

/-- A core with a latched error. -/
def latched : State := { State.reset with status := Status.failed .illegalCommand .idle, errInfo := 0xB }

/-- R48: a wait for irq is no synchronising action. -/
theorem test_waitIrq_does_not_synchronise :
    (let t := after (step { latched with intEn := 2, unseen := true, host := [.waitIrq] })
     t.unseen = true ∧ t.host = []) := by decide

theorem ab_treeOk : ab.treeOk := by
  refine ⟨by decide, ⟨2, by decide, by decide, by decide, by decide, by decide, ?_, by decide, ?_⟩, by decide⟩
  · intro i n h
    match i with
    | 0 => cases h; decide
    | 1 => cases h; decide
    | 2 => cases h; decide
    | i + 3 => simp [ab] at h
  · intro i f l r h
    match i with
    | 0 => cases h
    | 1 => cases h
    | 2 => cases h; decide
    | i + 3 => simp [ab] at h

theorem one_treeOk : one.treeOk := by
  refine ⟨by decide, ⟨1, by decide, by decide, by decide, by decide, by decide, ?_, by decide, ?_⟩, by decide⟩
  · intro i n h
    match i with
    | 0 => cases h; decide
    | i + 1 => simp [one] at h
  · intro i f l r h
    match i with
    | 0 => cases h
    | i + 1 => simp [one] at h

/-! ### Encoding and dispatch -/

theorem witness_WordIsCommandIffEncoded : decode 0x0000000F#32 = .instr .srst ∧ 0x0000000F#32 = encode .srst := by decide

/-- Illegal words at the ends of R63's ranges; a core that accepts and one that does not. -/
theorem witness_IllegalWordLatchesIllegalCommand :
    (∀ i, decode 0x0000000B#32 ≠ .instr i) ∧ (∀ i, decode 0x0000000E#32 ≠ .instr i) ∧
    (∀ i, decode 0x00000010#32 ≠ .instr i) ∧ (∀ i, decode 0xFFFFFFFF#32 ≠ .instr i) ∧
    State.reset.ready = true ∧ busyState.ready = false ∧ latched.ready = false := by
  refine ⟨?_, ?_, ?_, ?_, by decide, by decide, by decide⟩ <;> intro i <;> cases i <;> decide

/-- The last offset of the interface, and STATUS read by a host that has not seen BUSY = 0; irq up and down; a queued command
word of a host that has seen BUSY = 0, a queued SRST of one that has not, no window, a command that
opens one and one that does not, a core that is not ready, a table word. -/
theorem witness_StepRunsTheDecodedCommand :
    (let s := { ab with host := [.read 0xFC] }
     s.host = .read 0xFC :: [] ∧ 0xFC % 4 = 0 ∧ s.unseen = false) ∧
    (let s := { busyState with host := [.read 0x08] }
     s.host = .read 0x08 :: [] ∧ s.unseen = true) ∧
    (let s := { latched with host := [.waitIrq], intEn := 2 }
     s.host = .waitIrq :: [] ∧ (tick { s with host := [] }).irq = true ∧
      (tick { { s with intEn := 1 } with host := [], status := Status.zero }).irq = false) ∧
    (let s := { State.reset with host := [.write 0x04 1#32] }
     s.host = .write 0x04 1#32 :: [] ∧ decode 1#32 = .instr .count ∧ s.unseen = false) ∧
    (let s := { busyState with host := [.write 0x04 0xF#32] }
     s.host = .write 0x04 0xF#32 :: [] ∧ decode 0xF#32 = .instr .srst ∧ s.unseen = true) ∧
    State.reset.flight = none ∧ State.reset.ready = true ∧ Instr.nop ∈ [Instr.nop, .clrst, .srst] ∧
    busyState.ready = false ∧ decodeTableWord 32 1 = some .count := by decide

theorem witness_IgnoredCommandsChangeNothing :
    busyState.status.busy = true ∧ (0x0000000A#32 : Word) ≠ 0x0000000F#32 ∧
    latched.status.err ≠ .noError ∧ (0x00000001#32 : Word) ≠ 0x0000000A#32 ∧ (0x00000001#32 : Word) ≠ 0x0000000F#32 := by
  decide

/-! ### System commands -/

theorem witness_NopAndClrstEffects : latched.status.busy = false ∧ busyState.status.busy = true := by decide

/-! ### COUNT -/

/-- An input, and the longest SRC_LEN the statement admits. -/
theorem witness_CountFillsTheTable :
    (loaded v1In).statusOk = true ∧ (loaded v1In).ready = true ∧ (loaded v1In).srcLen.toNat ≤ (loaded v1In).cfg.nMax ∧
    { State.reset with srcLen := 65536 }.srcLen.toNat = State.reset.cfg.nMax := by decide

/-- One byte too many; a payload one byte too long for DST. -/
theorem witness_CapacityChecksPrecedeEveryWrite :
    State.reset.ready = true ∧
    (let s := { State.reset with srcLen := 65537 }
     s.ready = true ∧ s.srcLen.toNat > s.cfg.nMax) ∧
    (let s := { State.reset with bitLen := 534529 }
     s.ready = true ∧ 6 + 5 * s.kView + ceil8 s.bitLen.toNat = s.bufBytes + 1) := by decide +kernel

theorem witness_TableCommandsFrame :
    exec .count ab = .next (after (exec .count ab)) ∧ exec .build ab = .next (after (exec .build ab)) ∧
    exec .walk ab = .next (after (exec .walk ab)) :=
  ⟨next_after (by decide +kernel), next_after (by decide +kernel), next_after (by decide +kernel)⟩

/-! ### BUILD -/

theorem witness_BuildMakesTheTree :
    ab.statusOk = true ∧ ab.ready = true ∧ ab.kView ≥ 1 ∧ freqTotal ab.freq < 2 ^ 32 ∧ State.reset.kView = 0 := by
  decide +kernel

theorem witness_ArbiterPicksTheSmallestKey :
    ([0, 1] : List Nat) ≠ [] ∧ pqMin ab.node [0, 1] = 0 ∧ pqMin ab.node [2] = 2 := by decide

/-- Three members of one frequency: the two lowest indices are joined. -/
theorem witness_MergeJoinsTheTwoSmallest :
    let b : Builder := ⟨[.leaf 0x61 1, .leaf 0x62 1, .leaf 0x63 1], [0, 1, 2]⟩
    2 ≤ b.inq.length ∧ b.inq.Nodup ∧ (∀ i ∈ b.inq, i < b.nodes.length) ∧ b.nodes.length ≤ 510 ∧
    (mergeStep b).inq = [2, 3] := by decide

/-- Each edge case, the two orders of k = 2 among them. -/
theorem witness_BuildEdgeCases :
    (State.reset.kView = 0 ∧ exec .build State.reset = .next (after (exec .build State.reset))) ∧
    (presentSymbols one.freq = [0x41] ∧ exec .build one = .next (after (exec .build one))) ∧
    (presentSymbols ab.freq = [0x61, 0x62] ∧ exec .build ab = .next (after (exec .build ab))) ∧
    (presentSymbols (table [(0x61, 2), (0x62, 1)]) = [0x61, 0x62]) ∧
    (let s := { State.reset with freq := Vector.replicate 256 1 }
     s.ready = true ∧ s.kView = 256 ∧ exec .build s = .next (after (exec .build s))) :=
  ⟨⟨by decide +kernel, next_after (by decide +kernel)⟩, ⟨by decide +kernel, next_after (by decide +kernel)⟩,
    ⟨by decide +kernel, next_after (by decide +kernel)⟩, by decide +kernel,
    ⟨by decide +kernel, by decide +kernel, next_after rfl⟩⟩

/-! ### WALK -/

theorem witness_WalkWritesThePaths :
    ab.statusOk = true ∧ ab.ready = true ∧ ab.treeOk ∧ 3 ≤ ab.nodeCnt.toNat ∧
    atSym (after (exec .walk ab)).code 0x62 = some ⟨1, 1⟩ :=
  ⟨by decide, by decide, ab_treeOk, by decide, by decide +kernel⟩

theorem witness_WalkOfNoneOrOneLeaf :
    State.reset.ready = true ∧ State.reset.nodeCnt = 0 ∧ one.ready = true ∧ one.nodeCnt = 1 ∧ one.node = [.leaf 0x41 1] := by
  decide

/-- For the prefix-free codes and the Kraft sum alike: three nodes, and one. -/
theorem witness_WalkedCodesArePrefixFree :
    (ab.ready = true ∧ ab.treeOk ∧ exec .walk ab = .next (after (exec .walk ab))) ∧
    (one.ready = true ∧ one.treeOk ∧ exec .walk one = .next (after (exec .walk one))) :=
  ⟨⟨by decide, ab_treeOk, next_after (by decide +kernel)⟩, ⟨by decide, one_treeOk, next_after (by decide +kernel)⟩⟩

theorem witness_WalkedCodesFillTheKraftSum :
    (ab.ready = true ∧ ab.treeOk ∧ ab.nodeCnt = 3 ∧ exec .walk ab = .next (after (exec .walk ab))) ∧
    (one.ready = true ∧ one.treeOk ∧ one.nodeCnt = 1 ∧ exec .walk one = .next (after (exec .walk one))) ∧
    (State.reset.ready = true ∧ State.reset.nodeCnt = 0 ∧ exec .walk State.reset = .next (after (exec .walk State.reset))) :=
  ⟨⟨by decide, ab_treeOk, by decide, next_after (by decide +kernel)⟩,
    ⟨by decide, one_treeOk, by decide, next_after (by decide +kernel)⟩, by decide, by decide, next_after (by decide +kernel)⟩

/-- A core that has counted four "a", two "b" and one "c". -/
def abc : State := { State.reset with freq := table [(0x61, 4), (0x62, 2), (0x63, 1)] }

theorem witness_FrequentSymbolsHaveShortCodes :
    let t := after (exec .build abc)
    let u := after (exec .walk { t with status := abc.status })
    abc.ready = true ∧ abc.freqOk ∧ exec .build abc = .next t ∧ exec .walk { t with status := abc.status } = .next u ∧
      (atSym abc.freq 0x63).toNat < (atSym abc.freq 0x61).toNat ∧ 0 < (atSym abc.freq 0x63).toNat ∧
      (u.codeBits 0x61).length = 1 ∧ (u.codeBits 0x63).length = 2 :=
  ⟨by decide, by unfold State.freqOk; decide +kernel, next_after (by decide +kernel), next_after (by decide +kernel),
    by decide +kernel, by decide +kernel, by decide +kernel, by decide +kernel⟩

/-- Two symbols with the assignment "0", "1"; and one symbol. -/
theorem witness_WalkedCodesAreOptimal :
    (let t := after (exec .build ab)
     ab.ready = true ∧ ab.freqOk ∧ exec .build ab = .next t ∧
      exec .walk { t with status := ab.status } = .next (after (exec .walk { t with status := ab.status })) ∧ 2 ≤ ab.kView) ∧
    (∀ a b : Byte, atSym ab.freq a ≠ 0 → atSym ab.freq b ≠ 0 → a ≠ b → ¬ [a == 0x61] <+: [b == 0x61]) ∧
    (let t := after (exec .build one)
     one.ready = true ∧ one.freqOk ∧ exec .build one = .next t ∧
      exec .walk { t with status := one.status } = .next (after (exec .walk { t with status := one.status })) ∧
      one.kView = 1) := by
  refine ⟨⟨by decide, by unfold State.freqOk; decide +kernel, next_after (by decide +kernel), next_after (by decide +kernel),
    by decide +kernel⟩, ?_, by decide, by unfold State.freqOk; decide +kernel, next_after (by decide +kernel),
    next_after (by decide +kernel), by decide +kernel⟩
  have h : ∀ a : Byte, atSym ab.freq a ≠ 0 → a = 0x61 ∨ a = 0x62 := by decide +kernel
  intro a b ha hb hab
  rcases h a ha with rfl | rfl <;> rcases h b hb with rfl | rfl <;> simp_all

/-! ### PACK -/

theorem witness_PackConcatenatesTheCodes :
    ab.statusOk = true ∧ ab.ready = true ∧ ab.srcLen.toNat ≤ ab.cfg.nMax ∧ (∀ b ∈ ab.srcBytes, ab.hasCode b = true) ∧
    ceil8 (ab.bitsBefore ab.srcLen.toNat) ≤ ab.bufBytes := by decide +kernel

/-- The second byte has no code; the first byte has none. -/
theorem witness_PackStopsAtAnUncodedByte :
    (let s := { ab with src := [(0, 0x61), (1, 0x7A)] }
     s.ready = true ∧ s.srcLen.toNat ≤ s.cfg.nMax ∧ 1 < s.srcLen.toNat ∧ (∀ j < 1, s.hasCode (s.srcByte j) = true) ∧
      s.hasCode (s.srcByte 1) = false ∧ s.bitsBefore 1 / 8 ≤ s.bufBytes) ∧
    (let s := { ab with code := emptyCodes }
     s.ready = true ∧ s.srcLen.toNat ≤ s.cfg.nMax ∧ 0 < s.srcLen.toNat ∧ s.hasCode (s.srcByte 0) = false ∧
      s.bitsBefore 0 / 8 ≤ s.bufBytes) := by decide +kernel

/-- A core with N_MAX = n, `n` bytes in SRC and every code `len` bits long. -/
def wide (n : Nat) (h : 1 ≤ n ∧ n ≤ 2 ^ 24) (len : BitVec 8) : State :=
  { State.resetOf ⟨n, h.1, h.2⟩ with srcLen := BitVec.ofNat 32 n, code := Vector.replicate 256 (some ⟨len, 0⟩) }

theorem wide_hasCode (n : Nat) (h : 1 ≤ n ∧ n ≤ 2 ^ 24) (len : BitVec 8) (b : Byte) : (wide n h len).hasCode b = true := by
  simp [wide, State.hasCode]

theorem wide_bitsBefore (n : Nat) (h : 1 ≤ n ∧ n ≤ 2 ^ 24) (len : BitVec 8) (i : Nat) :
    (wide n h len).bitsBefore i = i * len.toNat := by
  have hl : ∀ b : Byte, ((wide n h len).codeBits b).length = len.toNat := by intro b; simp [wide, State.codeBits]
  have hm : ∀ bs : List Byte, (bs.map fun b => ((wide n h len).codeBits b).length).sum = bs.length * len.toNat := by
    intro bs; induction bs with
    | nil => simp
    | cons b bs ih => rw [List.map_cons, List.sum_cons, hl, ih, List.length_cons, Nat.succ_mul]; omega
  rw [State.bitsBefore, hm, State.srcSlice, List.length_map, List.length_range]

/-- 49 codes of 255 bits: the 42nd does not fit; 49 codes of 218 bits: two bits too many. -/
theorem witness_PackStopsAtAFullPayload :
    (let s := wide 49 (by decide) 255
     s.ready = true ∧ s.srcLen.toNat ≤ s.cfg.nMax ∧ 41 < s.srcLen.toNat ∧ (∀ j ≤ 41, s.hasCode (s.srcByte j) = true) ∧
      s.bitsBefore 41 / 8 ≤ s.bufBytes ∧ s.bufBytes < s.bitsBefore (41 + 1) / 8) ∧
    (let s := wide 49 (by decide) 218
     s.ready = true ∧ s.srcLen.toNat ≤ s.cfg.nMax ∧ (∀ b ∈ s.srcBytes, s.hasCode b = true) ∧
      s.bitsBefore s.srcLen.toNat / 8 = s.bufBytes ∧ s.bitsBefore s.srcLen.toNat % 8 ≠ 0) := by
  refine ⟨⟨by decide, by decide, by decide, fun _ _ => wide_hasCode .., ?_, ?_⟩, by decide, by decide,
    fun _ _ => wide_hasCode .., ?_, ?_⟩ <;> rw [wide_bitsBefore] <;> decide

theorem witness_PayloadCommandsFrame :
    exec .pack ab = .next (after (exec .pack ab)) ∧ exec .parse abIn = .next (after (exec .parse abIn)) ∧
    packStored ab = 1 ∧ ceil8 (after (exec .parse abIn)).bitLen.toNat = 1 :=
  ⟨next_after (by decide +kernel), next_after (by decide +kernel), by decide +kernel, by decide +kernel⟩

/-! ### FRAME and PARSE -/

/-- A table and a payload; and the longest container that fits. -/
theorem witness_FrameWritesTheContainer :
    (ab.statusOk = true ∧ ab.ready = true ∧ 6 + 5 * ab.kView + ceil8 ab.bitLen.toNat ≤ ab.bufBytes) ∧
    (let s := { State.reset with bitLen := 534528 }
     s.statusOk = true ∧ s.ready = true ∧ 6 + 5 * s.kView + ceil8 s.bitLen.toNat = s.bufBytes) := by decide +kernel

/-- The container of "ab", and the empty one. -/
theorem witness_ParseLoadsTheContainer :
    (let s := abIn
     s.statusOk = true ∧ s.ready = true ∧ s.srcLen.toNat ≤ s.bufBytes ∧ 2 ≤ s.srcLen.toNat ∧ 2 = s.srcRead 0 2 ∧
      2 = s.srcRead (2 + 5 * 2) 4 ∧ s.srcLen.toNat = 6 + 5 * 2 + ceil8 2 ∧ (∀ i < 2, s.srcRead (3 + 5 * i) 4 ≠ 0) ∧
      (∀ i < 2, ∀ j < i, s.srcByte (2 + 5 * i) ≠ s.srcByte (2 + 5 * j)) ∧
      ((List.range 2).map fun i => s.srcRead (3 + 5 * i) 4).sum ≤ s.cfg.nMax) ∧
    (let s := loaded [0, 0, 0, 0, 0, 0]
     s.statusOk = true ∧ s.ready = true ∧ s.srcLen.toNat ≤ s.bufBytes ∧ 2 ≤ s.srcLen.toNat ∧ 0 = s.srcRead 0 2 ∧
      0 = s.srcRead (2 + 5 * 0) 4 ∧ s.srcLen.toNat = 6 + 5 * 0 + ceil8 0) := by decide +kernel

/-- The header length, the bit-length and the check of entry i in the statement's words. -/
def hdrLen (s : State) : Nat := 6 + 5 * s.srcRead 0 2

def hdrBits (s : State) : Nat := s.srcRead (hdrLen s - 4) 4

abbrev entryOk (s : State) (i : Nat) : Prop :=
  s.srcRead (3 + 5 * i) 4 ≠ 0 ∧ ∀ j < i, s.srcByte (2 + 5 * i) ≠ s.srcByte (2 + 5 * j)

def entrySum (s : State) : Nat := ((List.range (s.srcRead 0 2)).map fun i => s.srcRead (3 + 5 * i) 4).sum

/-- A core that accepts a command, with no more bytes in SRC than SRC holds. -/
abbrev inSrc (s : State) : Prop := s.ready = true ∧ s.srcLen.toNat ≤ s.bufBytes

/-- R188's first four checks, the lengths at the ends of their ranges. -/
theorem witness_ParseReportsTheFirstError_lengths :
    (let s := { State.reset with srcLen := 66823 }
     s.ready = true ∧ s.srcLen.toNat = s.bufBytes + 1) ∧
    (let s := loaded [0]
     inSrc s ∧ s.srcLen.toNat + 1 = 2) ∧
    (let s := loaded [1, 1]
     inSrc s ∧ 2 ≤ s.srcLen.toNat ∧ s.srcRead 0 2 = 257) ∧
    (let s := loaded [1, 0]
     inSrc s ∧ 2 ≤ s.srcLen.toNat ∧ s.srcRead 0 2 = 256 ∧ s.srcLen.toNat < hdrLen s) ∧
    (let s := loaded [0, 0, 0, 0, 0]
     inSrc s ∧ 2 ≤ s.srcLen.toNat ∧ s.srcRead 0 2 ≤ 256 ∧ s.srcLen.toNat + 1 = hdrLen s) := by decide +kernel

/-- R188's fifth and sixth checks: an entry of frequency 0, a second entry of one symbol, bits without a table. -/
theorem witness_ParseReportsTheFirstError_entries :
    (let s := loaded [0, 1, 0x61, 0, 0, 0, 0, 0, 0, 0, 0]
     inSrc s ∧ s.srcRead 0 2 ≤ 256 ∧ hdrLen s ≤ s.srcLen.toNat ∧ 0 < s.srcRead 0 2 ∧ ¬ entryOk s 0) ∧
    (let s := loaded [0, 2, 0x61, 0, 0, 0, 1, 0x61, 0, 0, 0, 1, 0, 0, 0, 0]
     inSrc s ∧ s.srcRead 0 2 ≤ 256 ∧ hdrLen s ≤ s.srcLen.toNat ∧ 1 < s.srcRead 0 2 ∧ (∀ j < 1, entryOk s j) ∧
      ¬ entryOk s 1) ∧
    (let s := loaded [0, 0, 0, 0, 0, 1]
     inSrc s ∧ hdrLen s ≤ s.srcLen.toNat ∧ s.srcRead 0 2 = 0 ∧ hdrBits s ≠ 0) := by decide +kernel

/-- R188's last two checks: a sum one above N_MAX; a sum of N_MAX and a payload one byte too short. -/
theorem witness_ParseReportsTheFirstError_sums :
    (let s := loaded [0, 1, 0x61, 0, 1, 0, 1, 0, 0, 0, 0]
     inSrc s ∧ s.srcRead 0 2 ≤ 256 ∧ hdrLen s ≤ s.srcLen.toNat ∧ (∀ i < s.srcRead 0 2, entryOk s i) ∧ s.srcRead 0 2 ≠ 0 ∧
      entrySum s = s.cfg.nMax + 1) ∧
    (let s := loaded [0, 1, 0x61, 0, 1, 0, 0, 0, 0, 0, 9, 0]
     inSrc s ∧ s.srcRead 0 2 ≤ 256 ∧ hdrLen s ≤ s.srcLen.toNat ∧ (∀ i < s.srcRead 0 2, entryOk s i) ∧ s.srcRead 0 2 ≠ 0 ∧
      entrySum s = s.cfg.nMax ∧ s.srcLen.toNat + 1 = hdrLen s + ceil8 (hdrBits s)) := by decide +kernel

theorem witness_ParseAfterFrameRestores :
    let t := after (exec .frame ab)
    ab.ready = true ∧ ab.freqOk ∧ 1 ≤ ab.kView ∧ exec .frame ab = .next t ∧ t.status.err = .noError ∧
      abIn.statusOk = true ∧ abIn.ready = true ∧ abIn.cfg = ab.cfg ∧ abIn.srcLen = t.dstLen ∧
      ∀ i < t.dstLen.toNat, abIn.srcByte i = t.dstByte i :=
  ⟨by decide, by unfold State.freqOk; decide +kernel, by decide +kernel, next_after (by decide +kernel), by decide +kernel,
    by decide, by decide, by decide, by decide +kernel, by decide +kernel⟩

/-! ### UNPACK -/

theorem witness_UnpackOfNothing :
    (State.reset.statusOk = true ∧ State.reset.ready = true ∧ State.reset.bitLen = 0) ∧
    (let s := { State.reset with bitLen := 1 }
     s.statusOk = true ∧ s.ready = true ∧ s.bitLen ≠ 0 ∧ s.nodeCnt = 0) := by decide

theorem ab_codes : ab.treeCode 0x61 [false] ∧ ab.treeCode 0x62 [true] := by
  refine ⟨?_, ?_⟩
  · rw [State.treeCode, if_neg (by decide)]; exact ⟨0, 1, by decide, by decide⟩
  · rw [State.treeCode, if_neg (by decide)]; exact ⟨1, 1, by decide, by decide⟩

theorem one_code : one.treeCode 0x41 [false] := by
  rw [State.treeCode, if_pos (by decide)]; exact ⟨rfl, by decide⟩

/-- Two codes of a tree of three nodes, and one code over a single leaf. -/
theorem witness_UnpackDecodesAConcatenation :
    (ab.statusOk = true ∧ ab.ready = true ∧ ab.treeOk ∧ ab.nodeCnt ≠ 0 ∧
      (∀ p ∈ [((0x61 : Byte), [false]), (0x62, [true])], ab.treeCode p.1 p.2) ∧
      ab.payBits = [((0x61 : Byte), [false]), (0x62, [true])].flatMap (fun p => p.2) ∧ 2 ≤ ab.cfg.nMax) ∧
    (one.statusOk = true ∧ one.ready = true ∧ one.treeOk ∧ one.nodeCnt ≠ 0 ∧
      (∀ p ∈ [((0x41 : Byte), [false])], one.treeCode p.1 p.2) ∧
      one.payBits = [((0x41 : Byte), [false])].flatMap (fun p => p.2) ∧ 1 ≤ one.cfg.nMax) := by
  refine ⟨⟨by decide, by decide, ab_treeOk, by decide, ?_, by decide +kernel, by decide⟩, by decide, by decide, one_treeOk,
    by decide, ?_, by decide +kernel, by decide⟩
  · simpa using ab_codes
  · simpa using one_code

/-- `abc` built: a tree of five nodes, where "1" ends inside a code. -/
def deep : State :=
  { State.reset with
    node := [.leaf 0x61 4, .leaf 0x62 2, .leaf 0x63 1, .internal 3 2 1, .internal 7 3 0], nodeCnt := 5, inq := [4]
    bitLen := 2, pay := [(0, 0x80)] }

theorem deep_treeOk : deep.treeOk := by
  refine ⟨by decide, ⟨3, by decide, by decide, by decide, by decide, by decide, ?_, by decide, ?_⟩, by decide⟩
  · intro i n h
    match i with
    | 0 => cases h; decide
    | 1 => cases h; decide
    | 2 => cases h; decide
    | 3 => cases h; decide
    | 4 => cases h; decide
    | i + 5 => simp [deep] at h
  · intro i f l r h
    match i with
    | 0 => cases h
    | 1 => cases h
    | 2 => cases h
    | 3 => cases h; decide
    | 4 => cases h; decide
    | i + 5 => simp [deep] at h

/-- The stream "1", "0": the code of 61, then half a code; and "1" over a single leaf, at the first bit and at the second. -/
theorem witness_UnpackRejectsABrokenStream :
    (deep.ready = true ∧ deep.treeOk ∧ 3 ≤ deep.nodeCnt.toNat ∧ (∀ p ∈ [((0x61 : Byte), [true])], deep.treeCode p.1 p.2) ∧
      deep.payBits = [((0x61 : Byte), [true])].flatMap (fun p => p.2) ++ [false] ∧ 1 ≤ deep.cfg.nMax ∧
      [false] ≠ ([] : List Bool) ∧
      ∃ m, descend deep.nodeAt deep.root.toNat [false] = some m ∧ (deep.nodeAt m).isInternal = true) ∧
    (let s := { one with pay := [(0, 0x80)] }
     s.ready = true ∧ s.nodeCnt = 1 ∧ 0 < s.bitLen.toNat ∧ s.payBit 0 = true) ∧
    (let s := { one with bitLen := 2, pay := [(0, 0x40)] }
     s.ready = true ∧ s.nodeCnt = 1 ∧ 1 < s.bitLen.toNat ∧ 1 ≤ s.cfg.nMax ∧ (∀ i < 1, s.payBit i = false) ∧
      s.payBit 1 = true) := by
  refine ⟨⟨by decide, deep_treeOk, by decide, ?_, by decide +kernel, by decide, by decide, 3, by decide, by decide⟩,
    by decide +kernel, by decide +kernel⟩
  have h : deep.treeCode 0x61 [true] := by
    rw [State.treeCode, if_neg (by decide)]; exact ⟨0, 4, by decide, by decide⟩
  simpa using h

/-- N_MAX = 1 and two symbols in the payload. -/
theorem witness_UnpackRefusesALongOutput :
    let s := { ab with cfg := ⟨1, by decide, by decide⟩ }
    s.ready = true ∧ s.treeOk ∧ s.nodeCnt ≠ 0 ∧ (∀ p ∈ [((0x61 : Byte), [false])], s.treeCode p.1 p.2) ∧
      s.treeCode 0x62 [true] ∧ [((0x61 : Byte), [false])].length = s.cfg.nMax ∧
      s.payBits = [((0x61 : Byte), [false])].flatMap (fun p => p.2) ++ [true] ++ [] := by
  refine ⟨by decide, ab_treeOk, by decide, ?_, ab_codes.2, by decide, by decide +kernel⟩
  intro p hp
  rw [List.mem_singleton] at hp
  exact hp ▸ ab_codes.1

theorem witness_UnpackInvertsPack :
    let t := after (exec .walk ab)
    let u := after (exec .pack { t with status := ab.status })
    ab.statusOk = true ∧ ab.ready = true ∧ ab.treeOk ∧ exec .walk ab = .next t ∧
      exec .pack { t with status := ab.status } = .next u ∧ u.status.err = .noError :=
  ⟨by decide, by decide, ab_treeOk, next_after (by decide +kernel), next_after (by decide +kernel), by decide +kernel⟩

theorem witness_OutputCommandsFrame :
    exec .frame ab = .next (after (exec .frame ab)) ∧ exec .unpack ab = .next (after (exec .unpack ab)) ∧
    (after (exec .frame ab)).dstLen = 17 ∧ unpackStored (accept .unpack true ab) = 2 :=
  ⟨next_after (by decide +kernel), next_after (by decide +kernel), by decide +kernel, by decide +kernel⟩

/-! ### COMPRESS and DECOMPRESS -/

/-- The empty input is one too. -/
theorem witness_CompressNeverFails :
    ab.statusOk = true ∧ ab.ready = true ∧ ab.srcLen.toNat ≤ ab.cfg.nMax ∧
    State.reset.statusOk = true ∧ State.reset.ready = true ∧ State.reset.srcLen.toNat ≤ State.reset.cfg.nMax := by decide

theorem witness_CompressIsItsStages :
    let t₁ := after (exec .count ab)
    let t₂ := after (exec .build t₁)
    let t₃ := after (exec .walk t₂)
    let t₄ := after (exec .pack t₃)
    let t₅ := after (exec .frame t₄)
    ab.statusOk = true ∧ ab.ready = true ∧ exec .count ab = .next t₁ ∧ t₁.status.err = .noError ∧ exec .build t₁ = .next t₂ ∧
      exec .walk t₂ = .next t₃ ∧ exec .pack t₃ = .next t₄ ∧ t₄.status.err = .noError ∧ exec .frame t₄ = .next t₅ :=
  ⟨by decide, by decide, next_after (by decide +kernel), by decide +kernel, next_after (by decide +kernel),
    next_after (by decide +kernel), next_after (by decide +kernel), by decide +kernel, next_after (by decide +kernel)⟩

/-- V60's container, one payload byte short: PARSE raises. -/
theorem witness_DecompressIsItsStages_parse :
    let s := loaded (v1Out.take 28)
    s.statusOk = true ∧ s.ready = true ∧ exec .parse s = .next (after (exec .parse s)) ∧
      (after (exec .parse s)).status.err ≠ .noError :=
  ⟨by decide, by decide, next_after (by decide +kernel), by decide +kernel⟩

/-- The container of "ab"; and one whose one bit ends inside a code, over the frequencies 4, 2, 1: UNPACK raises. -/
theorem witness_DecompressIsItsStages_unpack :
    (let t₁ := after (exec .parse abIn)
     let t₂ := after (exec .build t₁)
     let t₃ := after (exec .walk t₂)
     abIn.statusOk = true ∧ abIn.ready = true ∧ exec .parse abIn = .next t₁ ∧ t₁.status.err = .noError ∧
      exec .build t₁ = .next t₂ ∧ exec .walk t₂ = .next t₃ ∧ exec .unpack t₃ = .next (after (exec .unpack t₃))) ∧
    (let s := loaded [0, 3, 0x61, 0, 0, 0, 4, 0x62, 0, 0, 0, 2, 0x63, 0, 0, 0, 1, 0, 0, 0, 1, 0x00]
     let t₁ := after (exec .parse s)
     let t₂ := after (exec .build t₁)
     let t₃ := after (exec .walk t₂)
     s.statusOk = true ∧ s.ready = true ∧ exec .parse s = .next t₁ ∧ t₁.status.err = .noError ∧
      exec .build t₁ = .next t₂ ∧ exec .walk t₂ = .next t₃ ∧ exec .unpack t₃ = .next (after (exec .unpack t₃)) ∧
      (after (exec .unpack t₃)).status.err ≠ .noError) :=
  ⟨⟨by decide, by decide, next_after (by decide +kernel), by decide +kernel, next_after (by decide +kernel),
      next_after (by decide +kernel), next_after (by decide +kernel)⟩,
    ⟨by decide, by decide, next_after (by decide +kernel), by decide +kernel, next_after (by decide +kernel),
      next_after (by decide +kernel), next_after (by decide +kernel), by decide +kernel⟩⟩

theorem witness_DecompressDecodesAContainer :
    let f := table [(0x61, 1), (0x62, 1)]
    let ps := [((0x61 : Byte), [false]), (0x62, [true])]
    abIn.statusOk = true ∧ abIn.ready = true ∧ freqTotal f ≤ abIn.cfg.nMax ∧ (∀ p ∈ ps, (treeState f).treeCode p.1 p.2) ∧
      presentSymbols f ≠ [] ∧ abIn.holdsContainer f (ps.flatMap fun p => p.2) ∧ abIn.srcLen.toNat ≤ abIn.bufBytes ∧
      ps.length ≤ abIn.cfg.nMax := by
  have hn : (treeState (table [(0x61, 1), (0x62, 1)])).nodeAt = ab.nodeAt := by
    have : (buildTree (table [(0x61, 1), (0x62, 1)])).nodes = ab.node := by decide +kernel
    funext m
    show ((buildTree (table [(0x61, 1), (0x62, 1)])).nodes[m]?).getD _ = (ab.node[m]?).getD _
    rw [this]; rfl
  have hc : (treeState (table [(0x61, 1), (0x62, 1)])).nodeCnt = 3 := by decide +kernel
  refine ⟨by decide, by decide, by decide +kernel, ?_, by decide +kernel, ⟨by decide +kernel, by decide +kernel, ?_⟩,
    by decide, by decide⟩
  · intro p hp
    have h := ab_codes
    simp only [State.treeCode, State.root, hn, hc] at h ⊢
    rcases List.mem_pair.mp hp with rfl | rfl
    · exact h.1
    · exact h.2
  · intro j hj
    have h : ∀ j < 2, (abIn.srcByte (16 + j / 8)).getLsbD (7 - j % 8) = [false, true][j]! := by decide +kernel
    have hk : (presentSymbols (table [(0x61, 1), (0x62, 1)])).length = 2 := by decide +kernel
    have h2 : j < 2 := hj
    rw [hk, h j h2]
    match j with
    | 0 => rfl
    | 1 => rfl

theorem witness_DecompressInvertsCompress :
    let t := after (exec .compress ab)
    ab.ready = true ∧ ab.srcLen.toNat ≤ ab.cfg.nMax ∧ exec .compress ab = .next t ∧ t.status.err = .noError ∧
      abIn.statusOk = true ∧ abIn.ready = true ∧ abIn.cfg = ab.cfg ∧ abIn.srcLen = t.dstLen ∧
      ∀ i < t.dstLen.toNat, abIn.srcByte i = t.dstByte i :=
  ⟨by decide, by decide, next_after (by decide +kernel), by decide +kernel, by decide, by decide, by decide,
    by decide +kernel, by decide +kernel⟩

/-- Two states that agree on SRC alone, for each of the two commands. -/
theorem witness_MacroResultsDependOnSourceAlone :
    (let s := { State.reset with src := ab.src, srcLen := 2 }
     ab.srcLen.toNat ≤ ab.cfg.nMax ∧ ab.ready = true ∧ s.ready = true ∧ ab.statusOk = true ∧ s.statusOk = true ∧
      ab.cfg = s.cfg ∧ ab.srcLen = s.srcLen ∧ ab.srcBytes = s.srcBytes ∧ exec .compress ab = .next (after (exec .compress ab)) ∧
      exec .compress s = .next (after (exec .compress s))) ∧
    (let s := { ab with src := abIn.src, srcLen := abIn.srcLen }
     abIn.ready = true ∧ s.ready = true ∧ abIn.statusOk = true ∧ s.statusOk = true ∧
      abIn.cfg = s.cfg ∧ abIn.srcLen = s.srcLen ∧ abIn.srcBytes = s.srcBytes ∧
      exec .decompress abIn = .next (after (exec .decompress abIn)) ∧
      exec .decompress s = .next (after (exec .decompress s)) ∧ (after (exec .decompress abIn)).status.ephase ≠ .parse) :=
  ⟨⟨by decide, by decide, by decide, by decide, by decide, by decide, by decide, by decide, next_after (by decide +kernel),
      next_after (by decide +kernel)⟩,
    ⟨by decide, by decide, by decide, by decide, by decide, by decide, by decide, next_after (by decide +kernel),
      next_after (by decide +kernel), by decide +kernel⟩⟩

theorem witness_MacroCommandsFrame :
    exec .compress ab = .next (after (exec .compress ab)) ∧ exec .decompress abIn = .next (after (exec .decompress abIn)) ∧
    (after (exec .compress ab)).dstLen = 17 ∧ unpackStored { after (exec .decompress abIn) with dst := abIn.dst } = 2 :=
  ⟨next_after (by decide +kernel), next_after (by decide +kernel), by decide +kernel, by decide +kernel⟩

theorem witness_OnlyTheHostWritesItsRegisters :
    Instr.compress ≠ .srst ∧ exec .compress ab = .next (after (exec .compress ab)) :=
  ⟨by decide, next_after (by decide +kernel)⟩

/-! ### The host interface -/

theorem witness_RegistersReadBackWhatWasWritten : ab.status.busy = false := by decide

/-- The ends of the reserved offsets, and a listed one. -/
theorem witness_ReadOnlyRegistersIgnoreWrites :
    (0x40 : Nat) ∈ [0x00, 0x08, 0x0C, 0x18, 0x1C, 0x20, 0x24, 0x34, 0x40] ∧ 0x44 ≤ 0x44 ∧ 0x44 ≤ 0xFC ∧
    ab.status.busy = false := by decide

/-- The last byte of a port and the first index past it; DST_LEN on both sides of DST_PTR. -/
theorem witness_DataPortsAdvanceTheirPointers :
    ab.status.busy = false ∧ { ab with srcPtr := 66821 }.srcPtr.toNat < ab.bufBytes ∧
    ab.bufBytes ≤ { ab with srcPtr := 66822 }.srcPtr.toNat ∧
    (let s := { ab with dstPtr := 66821, dstLen := 66822 }
     s.dstPtr.toNat < s.bufBytes ∧ s.dstPtr.toNat < s.dstLen.toNat) ∧
    (let s := { ab with dstPtr := 2, dstLen := 2 }
     s.dstPtr.toNat < s.bufBytes ∧ s.dstLen.toNat ≤ s.dstPtr.toNat) ∧
    ab.bufBytes ≤ { ab with dstPtr := 66822 }.dstPtr.toNat := by decide

/-- Every clause at an end of its range: the first and last valid entry and the first index past the table. -/
theorem witness_TablePortReadsTheTables :
    ({ ab with tblSel := 0, tblIdx := 255 }.tblIdx.toNat = (0xFF : Byte).toNat ∧ ({ ab with tblIdx := 256 }.tblIdx.toNat = 256)) ∧
    (2 < ab.nodeCnt.toNat ∧ ab.node[2]? = some (Node.internal 2 0 1) ∧
      { ab with tblSel := 1, tblIdx := 4 }.tblIdx.toNat = 2 * 2 ∧ { ab with tblSel := 1, tblIdx := 5 }.tblIdx.toNat = 2 * 2 + 1 ∧
      { ab with tblSel := 1, tblIdx := 1022 }.tblIdx.toNat = 1022) ∧
    (atSym ab.code 0x62 = some ⟨1, 1⟩ ∧ { ab with tblSel := 2, tblIdx := 1568 }.tblIdx.toNat = 16 * (0x62 : Byte).toNat + 0 ∧
      { ab with tblSel := 2, tblIdx := 1569 }.tblIdx.toNat = 16 * (0x62 : Byte).toNat + 1 ∧
      { ab with tblSel := 2, tblIdx := 1576 }.tblIdx.toNat = 16 * (0x62 : Byte).toNat + 8 ∧
      { ab with tblSel := 2, tblIdx := 1577 }.tblIdx.toNat = 16 * (0x62 : Byte).toNat + 9 ∧
      atSym ab.code 0xFF = none ∧ { ab with tblSel := 2, tblIdx := 4095 }.tblIdx.toNat = 16 * (0xFF : Byte).toNat + 15 ∧
      { ab with tblSel := 2, tblIdx := 4096 }.tblIdx.toNat = 4096) ∧
    (let s := { ab with tblSel := 3, tblIdx := 0 }
     s.tblIdx.toNat < s.bufBytes ∧ s.tblIdx.toNat < ceil8 s.bitLen.toNat) ∧
    (let s := { ab with tblSel := 3, tblIdx := 66822 }
     s.bufBytes = s.tblIdx.toNat) := by decide +kernel

theorem witness_StatusWordAndIrq :
    busyState.statusOk = true ∧ busyState.status.busy = true ∧
    (let s := { latched with intEn := 2 }
     s.irq = true ∧ s.status.busy = false ∧ exec .clrst s = .next (after (exec .clrst s))) :=
  ⟨by decide, by decide, by decide, by decide, next_after (by decide)⟩

/-- The last offset inside the interface, three transactions outside it, and the accesses R236 rules out and allows. -/
theorem witness_OnlyOutsideTransactionsAreRefused :
    isNext (step { ab with host := [.read 0xFC] }) = true ∧
    step { ab with host := [.read 0x02] } = .refused (.outsideInterface 32 0x02) ∧
    step { ab with host := [.write 0x100 0] } = .refused (.outsideInterface 32 0x100) ∧
    step { ab with host := [.irregular 16 0] } = .refused (.outsideInterface 16 0) ∧
    step { busyState with host := [.read 0x04] } = .refused (.busyAccess 0x04) ∧
    step { busyState with host := [.write 0x04 1#32] } = .refused (.busyAccess 0x04) ∧
    isNext (step { busyState with host := [.read 0x08] }) = true ∧
    isNext (step { busyState with host := [.write 0x04 0xF#32] }) = true :=
  ⟨by decide +kernel, rfl, rfl, rfl, rfl, rfl, by decide +kernel, by decide +kernel⟩

/-- A core with BUSY = 1; an access that goes on once BUSY = 0 has been seen, a read and a write; a host that breaks R236,
in the window and after its end. -/
theorem witness_BusyWindowRule :
    (busyState.status.busy = true ∧ (0x14 : Nat) ≠ 0x04) ∧
    (let s := { ab with host := [.read 0x34] }
     s.statusOk = true ∧ (0x34 : Nat) ≠ 0x00 ∧ (0x34 : Nat) ≠ 0x08 ∧ step s = .next (after (step s))) ∧
    (let s := { ab with host := [.write 0x14 3] }
     s.statusOk = true ∧ ¬ ((0x14 : Nat) = 0x04 ∧ (3 : Word) = 0x0000000F#32) ∧ step s = .next (after (step s))) ∧
    { busyState with host := [.read 0x14] }.followsBusyRule = false ∧
    { ab with host := [.write 0x14 3], unseen := true }.followsBusyRule = false :=
  ⟨by decide, ⟨by decide, by decide, by decide, next_after (by decide +kernel)⟩,
    ⟨by decide, by decide, next_after (by decide +kernel)⟩, by decide, by decide⟩

theorem witness_WaitingForACommandEnds :
    { busyState with host := [.wait] }.statusOk = true ∧
    busyState.flight = some ⟨1, [.count], Status.finished, 0⟩ ∧ { busyState with host := [.wait] }.host = .wait :: [] := by
  decide

/-- A command that ends without error, one that raises in a phase of its own, the last transaction of a window and the end
of one. -/
theorem witness_WindowShowsTheCommandsPhases :
    (ab.ready = true ∧ exec .compress ab = .next (after (exec .compress ab)) ∧
      (after (exec .compress ab)).status.err = .noError) ∧
    (let s := loaded (v1Out.take 28)
     s.ready = true ∧ exec .decompress s = .next (after (exec .decompress s)) ∧
      (after (exec .decompress s)).status.err ≠ .noError) ∧
    (busyState.flight = some ⟨0 + 1, [.count], Status.finished, 0⟩ ∧ [Phase.count] ≠ []) ∧
    { busyState with flight := some ⟨0, [.count], Status.finished, 0⟩ }.flight = some ⟨0, [.count], Status.finished, 0⟩ :=
  ⟨⟨by decide, next_after (by decide +kernel), by decide +kernel⟩,
    ⟨by decide, next_after (by decide +kernel), by decide +kernel⟩, ⟨rfl, by decide⟩, rfl⟩

/-! ### Invariants -/

theorem ab_codesOk : ab.codesOk := by
  have h : ∀ b : Byte, ((atSym ab.code b).all fun c => decide (1 ≤ c.len.toNat ∧ c.val.toNat < 2 ^ c.len.toNat)) = true := by
    decide +kernel
  intro b c hc
  have hb := h b
  rw [hc] at hb
  simpa using hb

/-- `ab` meets the invariants, and has a next step that runs a command. -/
def abStep : State := { ab with host := [.write 0x04 0x00000008#32] }

theorem witness_StepKeepsTheStatusRules :
    (abStep.statusOk = true ∧ step abStep = .next (after (step abStep))) ∧
    (busyState.statusOk = true ∧ step busyState = .next (after (step busyState))) :=
  ⟨⟨by decide, next_after (by decide +kernel)⟩, by decide, next_after (by decide)⟩

theorem witness_StepKeepsTheMemories : abStep.memoriesOk = true ∧ step abStep = .next (after (step abStep)) :=
  ⟨by decide, next_after (by decide +kernel)⟩

theorem witness_StepKeepsTheFrequencySum : abStep.freqOk ∧ step abStep = .next (after (step abStep)) :=
  ⟨by unfold State.freqOk; decide +kernel, next_after (by decide +kernel)⟩

theorem witness_StepKeepsTheTreeAndTheCodes :
    abStep.treeOk ∧ abStep.codesOk ∧ step abStep = .next (after (step abStep)) :=
  ⟨ab_treeOk, ab_codesOk, next_after (by decide +kernel)⟩

theorem witness_StepKeepsTheValidBytesWritten :
    abStep.payloadOk ∧ abStep.outputOk ∧ step abStep = .next (after (step abStep)) :=
  ⟨⟨by decide, by decide⟩, ⟨by decide, by decide⟩, next_after (by decide +kernel)⟩

theorem witness_NoStepFaults : abStep.treeOk ∧ noFault (step abStep) = true := ⟨ab_treeOk, by decide +kernel⟩

theorem witness_ErrorsStayLatched :
    let s := { latched with host := [.write 0x04 0x00000008#32] }
    s.statusOk = true ∧ s.flight = none ∧ s.status.err ≠ .noError ∧ step s = .next (after (step s)) :=
  ⟨by decide, by decide, by decide, next_after (by decide +kernel)⟩

end Sys2Proof.Tests
end

section
/-! PROOFS. What a command, an operation of the host and a step can do, said once: a working command runs the units of its
phases, and a property that every shared operation keeps is kept by every step. -/

namespace Sys2Proof.Machine

/-! ### A command is the units of its phases -/

/-- The unit that works in a phase (R98); none does in phase 0. -/
def unitOf : Phase → State → UnitResult
  | .idle => .done
  | .count => countUnit
  | .build => buildUnit
  | .walk => walkUnit
  | .pack => packUnit
  | .frame => frameUnit
  | .parse => parseUnit
  | .unpack => unpackUnit

/-- A command's phases, each with its unit, in order (R98, R100, R101). -/
def unitsOf (i : Instr) : List (Phase × (State → UnitResult)) := (phasesOf i).map fun p => (p, unitOf p)

/-- A working command is its units in the order of its phases, after acceptance in the first (R92). -/
theorem exec_of_working {i : Instr} (h : isWorking i = true) (s : State) :
    exec i s = runWorking ((phasesOf i).headD .idle) (producesDst i) (unitsOf i) s := by
  cases i with
  | nop | clrst | srst => cases h
  | _ => rfl

/-- The state a working command starts from once it is accepted (R92). -/
def accepted (i : Instr) (s : State) : State := accept ((phasesOf i).headD .idle) (producesDst i) s

theorem exec_of_ready {i : Instr} {s : State} (hi : isWorking i = true) (h : s.ready = true) :
    exec i s = runUnits (unitsOf i) (accepted i s) := by
  simp [exec_of_working hi, runWorking, h, accepted]

theorem exec_of_not_ready {i : Instr} {s : State} (hi : isWorking i = true) (h : s.ready = false) :
    exec i s = .next s := by
  simp [exec_of_working hi, runWorking, h]

theorem launch_of_working {i : Instr} {s : State} (hi : isWorking i = true) (hr : s.ready = true) (t : State) :
    launch i s t = openWindow (phasesOf i) t := by
  simp [launch, hi, hr]

theorem ready_iff {s : State} : s.ready = true ↔ s.status.busy = false ∧ s.status.err = .noError := by
  simp [State.ready]

/-- What a command can leave: nothing changed, the status cleared (R96), the core reset (R97), or what its units leave. -/
theorem exec_next_cases {i : Instr} {s t : State} (h : exec i s = .next t) :
    t = s ∨ (i = .clrst ∧ s.status.busy = false ∧ t = clearStatus s) ∨ (i = .srst ∧ t = resetCore s) ∨
      (isWorking i = true ∧ s.ready = true ∧ runUnits (unitsOf i) (accepted i s) = .next t) := by
  cases hi : isWorking i
  · cases i with
    | nop => cases h; exact .inl rfl
    | clrst =>
      cases hb : s.status.busy <;> simp only [exec, execClrst, hb] at h <;> cases h
      · exact .inr (.inl ⟨rfl, rfl, rfl⟩)
      · exact .inl rfl
    | srst => cases h; exact .inr (.inr (.inl ⟨rfl, rfl⟩))
    | _ => cases hi
  · cases hr : s.ready
    · rw [exec_of_not_ready hi hr] at h; cases h; exact .inl rfl
    · rw [exec_of_ready hi hr] at h; exact .inr (.inr (.inr ⟨rfl, rfl, h⟩))

/-- What a write to CMD can leave: nothing changed, the status cleared, the core reset, an illegal word's error latched, or a
working command in its BUSY window. -/
theorem writeCmd_next_cases {w : Word} {s t : State} (h : writeCmd w s = .next t) :
    t = s ∨ (decode w = .instr .clrst ∧ s.status.busy = false ∧ t = clearStatus s) ∨
      (decode w = .instr .srst ∧ t = resetCore s) ∨
      (s.ready = true ∧ t = illegalCommand w s) ∨
      (∃ i u, decode w = .instr i ∧ isWorking i = true ∧ s.ready = true ∧
        runUnits (unitsOf i) (accepted i s) = .next u ∧ t = openWindow (phasesOf i) u) := by
  cases hd : decode w with
  | rejected r =>
    simp only [writeCmd, hd, Host.Outcome.next.injEq] at h
    cases hr : s.ready <;> simp only [writeIllegal, hr] at h
    · exact .inl h.symm
    · exact .inr (.inr (.inr (.inl ⟨rfl, h.symm⟩)))
  | instr i =>
    simp only [writeCmd, hd] at h
    split at h
    · next u hu =>
      simp only [Host.Outcome.next.injEq] at h
      subst h
      rcases exec_next_cases hu with rfl | ⟨rfl, hb, rfl⟩ | ⟨rfl, rfl⟩ | ⟨hi, hr, hrun⟩
      · cases hi : isWorking i
        · exact .inl (by simp [launch, hi])
        · cases hr : u.ready
          · exact .inl (by simp [launch, hr])
          · refine .inr (.inr (.inr (.inr ⟨i, u, rfl, hi, rfl, ?_, launch_of_working hi hr u⟩)))
            rw [← exec_of_ready hi hr, hu]
      · exact .inr (.inl ⟨rfl, hb, rfl⟩)
      · exact .inr (.inr (.inl ⟨rfl, rfl⟩))
      · exact .inr (.inr (.inr (.inr ⟨i, u, rfl, hi, hr, hrun, launch_of_working hi hr u⟩)))
    · cases h
    · cases h

/-! ### What units keep -/

/-- `P` holds of the state a unit ends in, with or without an error. -/
def UnitResult.Holds (P : State → Prop) : UnitResult → Prop
  | .done t => P t
  | .raised _ _ t => P t
  | .stuck _ => True

namespace UnitResult.Holds
variable {P Q : State → Prop} {r : UnitResult}

theorem imp (h : r.Holds P) (hpq : ∀ t, P t → Q t) : r.Holds Q := by
  cases r with
  | done t | raised _ _ t => exact hpq t h
  | stuck => trivial

theorem of_done {t : State} (h : r.Holds P) (hr : r = .done t) : P t := by rw [hr] at h; exact h

end UnitResult.Holds

/-- What the unit of a phase may write, with or without an error (R46): every other field of `t` is as in `s`. -/
def Writes (s t : State) : Phase → Prop
  | .idle => t = s
  | .count => t = { s with freq := t.freq, hidden := t.hidden }
  | .build => t = { s with node := t.node, inq := t.inq, nodeCnt := t.nodeCnt }
  | .walk => t = { s with code := t.code, hidden := t.hidden }
  | .pack => t = { s with pay := t.pay, bitLen := t.bitLen, hidden := t.hidden }
  | .frame => t = { s with dst := t.dst, dstLen := t.dstLen, hidden := t.hidden }
  | .parse => t = { s with freq := t.freq, pay := t.pay, bitLen := t.bitLen, hidden := t.hidden }
  | .unpack => t = { s with dst := t.dst, dstLen := t.dstLen, hidden := t.hidden }

/-- The frame of every unit, whichever way it ends. -/
theorem unitOf_writes (p : Phase) (s : State) : (unitOf p s).Holds fun t => Writes s t p := by
  cases p with
  | idle | build => exact rfl
  | count => simp only [unitOf, countUnit]; split <;> exact rfl
  | walk =>
    simp only [unitOf, walkUnit]; split
    · exact rfl
    · trivial
  | pack =>
    simp only [unitOf, packUnit]; split
    · exact rfl
    · split <;> exact rfl
  | frame => simp only [unitOf, frameUnit]; split <;> exact rfl
  | parse => simp only [unitOf, parseUnit]; split <;> exact rfl
  | unpack =>
    simp only [unitOf, unpackUnit]; split
    · exact rfl
    · split
      · exact rfl
      · split <;> exact rfl

/-- A unit leaves STATUS and ERR_INFO to the sequencer (R93, R205). -/
theorem Writes.status {s t : State} {p : Phase} (h : Writes s t p) : t.status = s.status ∧ t.errInfo = s.errInfo := by
  cases p <;> exact ⟨(congrArg State.status h).trans rfl, (congrArg State.errInfo h).trans rfl⟩

/-- A property that the units of all phases and every way of ending keep holds of what a command's units leave. -/
theorem runUnits_unitsOf_keeps {P : State → Prop} (henter : ∀ p s, P s → P (enterPhase p s))
    (hcomplete : ∀ s, P s → P (complete s)) (hraise : ∀ e w p s, P s → P (raise e w p s))
    (hrelease : ∀ s, P s → P (releaseHidden s)) (hunit : ∀ p s, P s → (unitOf p s).Holds P)
    {i : Instr} {s t : State} (hs : P s) (h : runUnits (unitsOf i) s = .next t) : P t := by
  refine runUnits_keeps henter hcomplete hraise hrelease (fun pu hpu u hu => ?_) hs h
  obtain ⟨p, -, rfl⟩ := List.mem_map.1 hpu
  exact hunit p u hu

/-! ### What steps keep -/

/-- A property that time, reads, register writes, commands and reset keep, and that does not speak of the host's queue, is
kept by every step. -/
theorem step_keeps {P : State → Prop} (hqueue : ∀ s q, P s → P { s with host := q }) (htick : ∀ s, P s → P (tick s))
    (hread : ∀ off s, P s → P (hostRead off s)) (hwrite : ∀ d r s, P s → P (s.regWrite d r))
    (hcmd : ∀ w s t, P s → writeCmd w s = .next t → P t) (hreset : ∀ s, P s → P (resetCore s))
    {s t : State} (hs : P s) (h : step s = .next t) : P t := by
  have hhostWrite : ∀ off d u, P u → hostWrite off d u = .next t → P t := by
    intro off d u hu h
    unfold hostWrite at h
    split at h
    · exact hcmd d u t hu h
    · cases h; split
      · exact hu
      · exact hwrite d _ u hu
    · cases h; exact hu
  rcases hq : s.host with _ | ⟨op, rest⟩
  · simp only [step, hq, Host.Outcome.next.injEq] at h
    exact h ▸ htick s hs
  · simp only [step, hq] at h
    have hs' : P (tick { s with host := rest }) := htick _ (hqueue s rest hs)
    cases op with
    | read off =>
      rcases transaction_cases off (.read off) { s with host := rest } (.next (hostRead off (tick { s with host := rest })))
        with ⟨-, he⟩ | ⟨-, -, -, he⟩ | ⟨-, -, he⟩ <;> rw [hostStep, he] at h <;> cases h
      exact hread off _ hs'
    | write off d =>
      rcases transaction_cases off (.write off d) { s with host := rest } (hostWrite off d (tick { s with host := rest }))
        with ⟨-, he⟩ | ⟨-, -, -, he⟩ | ⟨-, -, he⟩ <;> rw [hostStep, he] at h
      · cases h
      · cases h
      · exact hhostWrite off d _ hs' h
    | irregular width off => cases h
    | wait =>
      cases h; split
      · exact hqueue _ _ (hread _ _ hs')
      · exact hread _ _ hs'
    | waitIrq =>
      cases h; split
      · exact hs'
      · exact hqueue _ _ hs'
    | hardReset => cases h; exact hreset _ (hqueue s rest hs)

/-! ### What steps keep of the tables -/

/-- The part of the state that only commands and reset write: the tables, the stored output and payload, their lengths. -/
structure Tables where
  cfg : Config
  dst : Memory
  pay : Memory
  freq : Vector Word 256
  node : List Node
  inq : List Nat
  code : Vector (Option Code) 256
  dstLen : Word
  bitLen : Word
  nodeCnt : BitVec 9

/-- The tables of a state. -/
def State.tables (s : State) : Tables :=
  ⟨s.cfg, s.dst, s.pay, s.freq, s.node, s.inq, s.code, s.dstLen, s.bitLen, s.nodeCnt⟩

section TablesOf
variable (s : State)

@[simp] theorem enterPhase_tables (p : Phase) : (enterPhase p s).tables = s.tables := rfl
@[simp] theorem complete_tables : (complete s).tables = s.tables := rfl
@[simp] theorem raise_tables (e : ErrCode) (w : Word) (p : Phase) : (raise e w p s).tables = s.tables := rfl
@[simp] theorem releaseHidden_tables : (releaseHidden s).tables = s.tables := rfl
@[simp] theorem clearStatus_tables : (clearStatus s).tables = s.tables := rfl
@[simp] theorem illegalCommand_tables (w : Word) : (illegalCommand w s).tables = s.tables := rfl
@[simp] theorem openWindow_tables (ps : List Phase) : (openWindow ps s).tables = s.tables := rfl
@[simp] theorem closeWindow_tables (f : Flight) : (closeWindow f s).tables = s.tables := rfl
@[simp] theorem reply_tables (v : Word) : (reply v s).tables = s.tables := rfl
@[simp] theorem seeIdle_tables : (seeIdle s).tables = s.tables := rfl
@[simp] theorem withHost_tables (q : List HostOp) : { s with host := q }.tables = s.tables := rfl

@[simp] theorem tick_tables : (tick s).tables = s.tables := by
  rcases tick_cases s with ⟨-, h⟩ | ⟨f, -, -, h⟩ | ⟨f, n, ps, -, -, -, h⟩ <;> rw [h] <;> rfl

@[simp] theorem afterRead_tables (r : Reg) : (s.afterRead r).tables = s.tables := by
  cases r with
  | srcData | dstData => simp only [State.afterRead]; split <;> rfl
  | _ => rfl

@[simp] theorem regWrite_tables (d : Word) (r : Reg) : (s.regWrite d r).tables = s.tables := by
  cases r with
  | srcData => simp only [State.regWrite]; split <;> rfl
  | _ => rfl

@[simp] theorem hostRead_tables (off : Nat) : (hostRead off s).tables = s.tables := by
  unfold hostRead busyRead idleRead
  split <;> split <;> simp

end TablesOf

/-- An invariant of the tables: it speaks of nothing else, holds after reset, and acceptance and every unit keep it. -/
structure TableInvariant (P : State → Prop) : Prop where
  congr : ∀ {s t : State}, t.tables = s.tables → P s → P t
  reset : ∀ s, P (resetCore s)
  accept : ∀ p c s, P s → P (accept p c s)
  unit : ∀ p s, P s → (unitOf p s).Holds P

namespace TableInvariant
variable {P : State → Prop}

/-- The units of an accepted command keep an invariant of the tables. -/
theorem runUnits (hP : TableInvariant P) {i : Instr} {s t : State} (hs : P s)
    (h : runUnits (unitsOf i) (accepted i s) = .next t) : P t :=
  runUnits_unitsOf_keeps (fun p s => hP.congr (enterPhase_tables s p)) (fun s => hP.congr (complete_tables s))
    (fun e w p s => hP.congr (raise_tables s e w p)) (fun s => hP.congr (releaseHidden_tables s)) hP.unit
    (hP.accept _ _ s hs) h

/-- Every command keeps an invariant of the tables. -/
theorem exec (hP : TableInvariant P) {i : Instr} {s t : State} (hs : P s) (h : exec i s = .next t) : P t := by
  rcases exec_next_cases h with rfl | ⟨-, -, rfl⟩ | ⟨-, rfl⟩ | ⟨-, -, hrun⟩
  · exact hs
  · exact hP.congr (clearStatus_tables s) hs
  · exact hP.reset s
  · exact hP.runUnits hs hrun

theorem writeCmd (hP : TableInvariant P) {w : Word} {s t : State} (hs : P s) (h : writeCmd w s = .next t) : P t := by
  rcases writeCmd_next_cases h with rfl | ⟨-, -, rfl⟩ | ⟨-, rfl⟩ | ⟨-, rfl⟩ | ⟨i, u, -, -, -, hrun, rfl⟩
  · exact hs
  · exact hP.congr (clearStatus_tables s) hs
  · exact hP.reset s
  · exact hP.congr (illegalCommand_tables s w) hs
  · exact hP.congr (openWindow_tables u _) (hP.runUnits hs hrun)

/-- Every step keeps an invariant of the tables. -/
theorem step (hP : TableInvariant P) {s t : State} (hs : P s) (h : step s = .next t) : P t :=
  step_keeps (fun s q => hP.congr (withHost_tables s q)) (fun s => hP.congr (tick_tables s))
    (fun off s => hP.congr (hostRead_tables s off)) (fun d r s => hP.congr (regWrite_tables s d r))
    (fun _ _ _ hs h => hP.writeCmd hs h) (fun s _ => hP.reset s) hs h

end TableInvariant

end Sys2Proof.Machine
end

section
/-! PROOFS. STATUS, ERR_INFO and the registers of the host through a command: what each unit leaves of them and which errors
it raises (R200, R206), and so how a command ends (R93, R205). Settles O42, O52 and O60. -/

namespace Sys2Proof.Machine

/-! ### The host's own registers -/

/-- What the host writes and no unit does (R11, R20, R25 to R28), and the model's own fields but the command counter. -/
structure HostSide where
  cfg : Config
  src : Memory
  srcLen : Word
  intEn : BitVec 2
  srcPtr : Word
  dstPtr : Word
  tblSel : BitVec 2
  tblIdx : Word
  flight : Option Flight
  unseen : Bool
  host : List HostOp
  replies : List Word
  resetEra : Nat

/-- The host's side of a state. -/
def State.hostSide (s : State) : HostSide :=
  ⟨s.cfg, s.src, s.srcLen, s.intEn, s.srcPtr, s.dstPtr, s.tblSel, s.tblIdx, s.flight, s.unseen, s.host, s.replies,
    s.resetEra⟩

theorem unitOf_hostSide (p : Phase) (s : State) : (unitOf p s).Holds fun t => t.hostSide = s.hostSide :=
  (unitOf_writes p s).imp fun t h => by cases p <;> exact (congrArg State.hostSide h).trans rfl

theorem runUnits_hostSide {i : Instr} {s t : State} (h : runUnits (unitsOf i) (accepted i s) = .next t) :
    t.hostSide = s.hostSide :=
  runUnits_unitsOf_keeps (P := fun t => t.hostSide = s.hostSide) (fun _ _ h => h) (fun _ h => h) (fun _ _ _ _ h => h)
    (fun _ h => h) (fun p u hu => hu ▸ unitOf_hostSide p u) (s := accepted i s) rfl h

/-- Settles O42: no unit writes the host's side, and neither do acceptance, CLRST and the end of a command. -/
theorem onlyTheHostWritesItsRegisters : Obligations.OnlyTheHostWritesItsRegisters := by
  intro i s t hi h
  have hside : t.hostSide = s.hostSide := by
    rcases exec_next_cases h with rfl | ⟨-, -, rfl⟩ | ⟨rfl, -⟩ | ⟨-, -, hrun⟩
    · rfl
    · rfl
    · exact absurd rfl hi
    · exact runUnits_hostSide hrun
  simp only [State.hostSide, HostSide.mk.injEq] at hside
  obtain ⟨hcfg, hsrc, hsrcLen, hintEn, hsrcPtr, hdstPtr, htblSel, htblIdx, hflight, hunseen, hhost, hreplies, hera⟩ := hside
  exact ⟨hsrc, hsrcLen, hintEn, hsrcPtr, hdstPtr, htblSel, htblIdx, hcfg, hhost, hreplies, hera, hflight, hunseen⟩

/-! ### The errors each unit raises -/

/-- A working command's error in phase `p` (R200): one that fits the phase, and not IllegalCommand. -/
def raisesIn (p : Phase) (e : ErrCode) : Prop := e ≠ .noError ∧ e ≠ .illegalCommand ∧ errPhaseOk e p = true

theorem appendBit_raises {cap off : Nat} {b : Bool} {p q : Packer} {e : ErrCode} {i : Nat}
    (h : appendBit cap off p b = .raised e i q) : e = .capacity := by
  simp only [appendBit] at h
  split at h
  · split at h <;> cases h
    rfl
  · cases h

theorem appendBits_raises {cap off : Nat} {bs : List Bool} {p q : Packer} {e : ErrCode} {i : Nat}
    (h : appendBits cap off bs p = .raised e i q) : e = .capacity := by
  induction bs generalizing p with
  | nil => cases h
  | cons b bs ih =>
    simp only [appendBits] at h
    split at h
    · exact ih h
    · next hb => cases h; exact appendBit_raises hb

theorem packLoop_raises {cap : Nat} {code : Vector (Option Code) 256} {bs : List Byte} {i j : Nat} {p q : Packer}
    {e : ErrCode} (h : packLoop cap code i bs p = .raised e j q) : e = .capacity ∨ e = .configuration := by
  induction bs generalizing i p with
  | nil =>
    simp only [packLoop, flushLast] at h
    split at h
    · split at h <;> cases h
      exact .inl rfl
    · cases h
  | cons b bs ih =>
    simp only [packLoop] at h
    split at h
    · cases h; exact .inr rfl
    · split at h
      · exact ih h
      · next hb => cases h; exact .inl (appendBits_raises hb)

theorem parseChecks_raises {s : State} {e : ErrCode} {info : Nat} (h : parseChecks s = .error (e, info)) :
    e = .capacity ∨ e = .malformedTable ∨ e = .corruptContainer := by
  simp only [parseChecks] at h
  repeat' split at h
  all_goals cases h
  all_goals simp

theorem unpackBit_raises {nMax j i : Nat} {nodeAt : Nat → Node} {single : Bool} {root : BitVec 9} {u v : Unpacker}
    {bit : Bool} {e : ErrCode} (h : unpackBit nMax j nodeAt single root u bit = .raised e i v) :
    e = .capacity ∨ e = .corruptContainer := by
  have hemit : ∀ u b, emit nMax j u b = .raised e i v → e = .capacity := by
    intro u b h
    rcases emit_cases nMax j u b with ⟨-, he⟩ | ⟨-, he⟩ <;> rw [he] at h <;> cases h
    rfl
  cases single
  · simp only [unpackBit, unpackMatch, Bool.false_eq_true, if_false] at h
    split at h
    · split at h <;> cases h
      next he => exact .inl (hemit _ _ he)
    · cases h
  · cases bit
    · exact .inl (hemit _ _ h)
    · cases h; exact .inr rfl

theorem unpackLoop_raises {nMax : Nat} {nodeAt : Nat → Node} {single : Bool} {root : BitVec 9} {bits : List Bool}
    {j i : Nat} {u v : Unpacker} {e : ErrCode} (h : unpackLoop nMax nodeAt single root j bits u = .raised e i v) :
    e = .capacity ∨ e = .corruptContainer := by
  induction bits generalizing j u with
  | nil =>
    simp only [unpackLoop] at h
    split at h <;> cases h
    exact .inr rfl
  | cons bit bits ih =>
    simp only [unpackLoop] at h
    split at h
    · exact ih h
    · next hb => cases h; exact unpackBit_raises hb

/-- A unit raises only errors of its phase (R200, R206). -/
theorem unitOf_raises {p : Phase} {s t : State} {e : ErrCode} {info : Word} (h : unitOf p s = .raised e info t) :
    raisesIn p e := by
  cases p with
  | idle | build => cases h
  | count =>
    simp only [unitOf, countUnit] at h; split at h <;> cases h
    exact ⟨by decide, by decide, by decide⟩
  | walk => simp only [unitOf, walkUnit] at h; split at h <;> cases h
  | pack =>
    simp only [unitOf, packUnit] at h; split at h
    · cases h; exact ⟨by decide, by decide, by decide⟩
    · split at h <;> cases h
      next hp => rcases packLoop_raises hp with rfl | rfl <;> exact ⟨by decide, by decide, by decide⟩
  | frame =>
    simp only [unitOf, frameUnit] at h; split at h <;> cases h
    exact ⟨by decide, by decide, by decide⟩
  | parse =>
    simp only [unitOf, parseUnit] at h; split at h <;> cases h
    next hp => rcases parseChecks_raises hp with rfl | rfl | rfl <;> exact ⟨by decide, by decide, by decide⟩
  | unpack =>
    simp only [unitOf, unpackUnit] at h; split at h
    · cases h
    · split at h
      · cases h; exact ⟨by decide, by decide, by decide⟩
      · split at h <;> cases h
        next hp => rcases unpackLoop_raises hp with rfl | rfl <;> exact ⟨by decide, by decide, by decide⟩

/-! ### How a command ends -/

/-- Units end without an error, with ERR, EPHASE and ERR_INFO as they were (R93), or with an error of one of their phases
(R205). -/
theorem runUnits_ends {ps : List Phase} {s t : State} (h : runUnits (ps.map fun p => (p, unitOf p)) s = .next t) :
    (t.status = { s.status with busy := false, done := true, phase := .idle } ∧ t.errInfo = s.errInfo) ∨
      ∃ p ∈ ps, ∃ e, raisesIn p e ∧ t.status = Status.failed e p := by
  induction ps generalizing s with
  | nil => simp only [List.map_nil, runUnits, Host.Outcome.next.injEq] at h; subst h; exact .inl ⟨rfl, rfl⟩
  | cons p ps ih =>
    simp only [List.map_cons, runUnits] at h
    split at h
    · next v hv =>
      obtain ⟨hst, hinfo⟩ := ((unitOf_writes p (enterPhase p s)).of_done hv).status
      rcases ih h with ⟨h1, h2⟩ | ⟨q, hq, e, he⟩
      · exact .inl ⟨by simp [h1, hst], by simp [h2, hinfo]⟩
      · exact .inr ⟨q, List.mem_cons_of_mem _ hq, e, he⟩
    · next e w v hv =>
      simp only [Host.Outcome.next.injEq] at h; subst h
      exact .inr ⟨p, List.mem_cons_self, e, unitOf_raises hv, rfl⟩
    · cases h

/-- An accepted working command ends with DONE and no error, ERR_INFO as it was (R93), or with an error of one of its own
phases (R205). -/
theorem runUnits_accepted_ends {i : Instr} {s t : State} (hr : s.ready = true)
    (h : runUnits (unitsOf i) (accepted i s) = .next t) :
    (t.status = { s.status with done := true, phase := .idle } ∧ t.errInfo = s.errInfo) ∨
      ∃ p ∈ phasesOf i, ∃ e, raisesIn p e ∧ t.status = Status.failed e p := by
  obtain ⟨hb, -⟩ := ready_iff.1 hr
  rcases runUnits_ends h with ⟨h1, h2⟩ | h1
  · exact .inl ⟨by rw [h1]; simp [accepted, hb], h2⟩
  · exact .inr h1

/-! ### The phases a window shows -/

theorem upToPhase_prefix (p : Phase) (ps : List Phase) : upToPhase p ps <+: ps := by
  induction ps with
  | nil => exact List.prefix_rfl
  | cons q qs ih =>
    simp only [upToPhase]; split
    · exact ⟨qs, rfl⟩
    · exact (List.prefix_cons_inj q).2 ih

theorem getLast?_upToPhase {p : Phase} {ps : List Phase} (h : p ∈ ps) : (upToPhase p ps).getLast? = some p := by
  induction ps with
  | nil => cases h
  | cons q qs ih =>
    simp only [upToPhase]; split
    · next hqp => rw [hqp]; rfl
    · next hqp =>
      have hp : p ∈ qs := (List.mem_cons.1 h).resolve_left (Ne.symm hqp)
      rw [List.getLast?_cons, ih hp]; rfl

theorem headD_upToPhase (p : Phase) (ps : List Phase) : (upToPhase p ps).headD .idle = ps.headD .idle := by
  cases ps with
  | nil => rfl
  | cons q qs => simp only [upToPhase]; split <;> rfl

theorem shownPhases_prefix (ps : List Phase) (st : Status) : shownPhases ps st <+: ps := by
  simp only [shownPhases]; split
  · exact List.prefix_rfl
  · exact upToPhase_prefix _ ps

theorem headD_shownPhases (ps : List Phase) (st : Status) : (shownPhases ps st).headD .idle = ps.headD .idle := by
  simp only [shownPhases]; split
  · rfl
  · exact headD_upToPhase _ ps

theorem headD_phasesOf {i : Instr} (h : isWorking i = true) : (phasesOf i).headD .idle ≠ .idle := by
  cases i with
  | nop | clrst | srst => cases h
  | _ => simp [phasesOf]

theorem idle_notMem_phasesOf (i : Instr) : Phase.idle ∉ phasesOf i := by
  cases i <;> decide

/-- The window of an accepted command: all its phases, or those up to the raising one, are still to be shown. -/
theorem launch_shows_phases {i : Instr} {s t : State} (hi : isWorking i = true) (hr : s.ready = true)
    (h : exec i s = .next t) :
    ∃ f, (launch i s t).flight = some f ∧ (t.status.err = .noError → f.phases = phasesOf i) ∧
      (t.status.err ≠ .noError →
        (∃ rest, phasesOf i = f.phases ++ rest) ∧ f.phases.getLast? = some t.status.ephase) := by
  rw [launch_of_working hi hr, openWindow_flight]
  refine ⟨_, rfl, fun he => by simp [shownPhases, he], fun he => ?_⟩
  obtain ⟨rest, hrest⟩ := shownPhases_prefix (phasesOf i) t.status
  refine ⟨⟨rest, hrest.symm⟩, ?_⟩
  rw [exec_of_ready hi hr] at h
  rcases runUnits_accepted_ends hr h with ⟨hst, -⟩ | ⟨p, hp, e, -, hst⟩
  · obtain ⟨-, herr⟩ := ready_iff.1 hr
    exact absurd (by rw [hst]; exact herr) he
  · have hep : t.status.ephase = p := by rw [hst]; rfl
    simp only [shownPhases, if_neg he, hep]
    exact getLast?_upToPhase hp

/-- Settles O60: the window's list is the command's phases, cut at the raising one, and time moves along a suffix of it. -/
theorem windowShowsTheCommandsPhases : Obligations.WindowShowsTheCommandsPhases := by
  refine ⟨fun ip hip s t hr h => ?_, fun s f hf => ⟨fun h0 => by simp [tick, hf, h0, closeWindow], fun n hn hne => ?_⟩⟩
  · have hi : isWorking ip.1 = true ∧ phasesOf ip.1 = ip.2 := by
      clear h
      revert ip; decide
    obtain ⟨hw, hps⟩ := hi
    exact hps ▸ launch_shows_phases hw hr h
  · obtain ⟨hsuf, hnonempty⟩ := advancePhases_suffix (Config.phaseAdvance s.cmdEra n) f.phases
    obtain ⟨p, ps, hps⟩ := List.exists_cons_of_ne_nil (hnonempty hne)
    exact ⟨p, ps, hps ▸ hsuf, by simp [tick, hf, hn, hps]⟩

/-! ### The rules of STATUS and ERR_INFO -/

theorem latchOk_iff {st : Status} {info : Word} :
    latchOk st info = true ↔ st.busy = false ∧ st.phase = .idle ∧ errPhaseOk st.err st.ephase = true ∧
      (if st.err = .noError then info = 0 else st.done = true) := by
  by_cases h : st.err = .noError <;> simp [latchOk, h, and_assoc]

theorem flightOk_iff {st : Status} {info : Word} {f : Flight} :
    flightOk st info f = true ↔ st = ⟨true, false, .noError, f.phases.headD .idle, .idle⟩ ∧ info = 0 ∧ f.phases ≠ [] ∧
      (∀ p ∈ f.phases, p ≠ .idle) ∧ latchOk f.final f.info = true ∧ f.final.done = true ∧
      f.final.err ≠ .illegalCommand := by
  simp [flightOk, and_assoc]

theorem statusOk_of_idle {s : State} (h : s.flight = none) : s.statusOk = latchOk s.status s.errInfo := by
  simp [State.statusOk, h]

theorem statusOk_of_flight {s : State} {f : Flight} (h : s.flight = some f) :
    s.statusOk = true ↔ flightOk s.status s.errInfo f = true ∧ s.unseen = true := by
  simp [State.statusOk, h]

/-- With BUSY = 0 no command is in its window. -/
theorem flight_of_not_busy {s : State} (hs : s.statusOk = true) (hb : s.status.busy = false) : s.flight = none := by
  rcases hf : s.flight with _ | f
  · rfl
  · obtain ⟨hst, -⟩ := flightOk_iff.1 ((statusOk_of_flight hf).1 hs).1
    rw [hst] at hb; cases hb

/-- STATUS and ERR_INFO of a core that accepts commands (R90, R91). -/
theorem status_of_ready {s : State} (hs : s.statusOk = true) (hr : s.ready = true) :
    s.flight = none ∧ s.status = ⟨false, s.status.done, .noError, .idle, .idle⟩ ∧ s.errInfo = 0 := by
  obtain ⟨hb, he⟩ := ready_iff.1 hr
  have hf := flight_of_not_busy hs hb
  obtain ⟨-, hp, hep, hi⟩ := latchOk_iff.1 (statusOk_of_idle hf ▸ hs)
  rw [he] at hep hi
  simp only [errPhaseOk, beq_iff_eq] at hep
  refine ⟨hf, ?_, hi⟩
  calc s.status = ⟨s.status.busy, s.status.done, s.status.err, s.status.phase, s.status.ephase⟩ := rfl
    _ = _ := by rw [hb, he, hp, hep]

/-- From a core that meets the rules a working command ends with STATUS = 0x00000002 and ERR_INFO = 0, or with an error of
one of its own phases (R93, R205). -/
theorem runUnits_accepted_status {i : Instr} {s t : State} (hs : s.statusOk = true) (hr : s.ready = true)
    (h : runUnits (unitsOf i) (accepted i s) = .next t) :
    (t.status = Status.finished ∧ t.errInfo = 0) ∨
      ∃ p ∈ phasesOf i, ∃ e, raisesIn p e ∧ t.status = Status.failed e p := by
  obtain ⟨-, hst, hinfo⟩ := status_of_ready hs hr
  rcases runUnits_accepted_ends hr h with ⟨h1, h2⟩ | h1
  · exact .inl ⟨by rw [h1, hst]; rfl, h2.trans hinfo⟩
  · exact .inr h1

/-- What a working command leaves for the end of its window meets the rules of a finished command. -/
theorem latchOk_of_runUnits {i : Instr} {s t : State} (hs : s.statusOk = true) (hr : s.ready = true)
    (h : runUnits (unitsOf i) (accepted i s) = .next t) :
    latchOk t.status t.errInfo = true ∧ t.status.done = true ∧ t.status.err ≠ .illegalCommand := by
  rcases runUnits_accepted_status hs hr h with ⟨h1, h2⟩ | ⟨p, -, e, ⟨hne, hill, hep⟩, h1⟩
  · rw [h1, h2]; decide
  · rw [h1]; exact ⟨latchOk_iff.2 ⟨rfl, rfl, hep, by simp [Status.failed, hne]⟩, rfl, hill⟩

theorem statusOk_openWindow {i : Instr} {t : State} (hi : isWorking i = true)
    (ht : latchOk t.status t.errInfo = true ∧ t.status.done = true ∧ t.status.err ≠ .illegalCommand) :
    (openWindow (phasesOf i) t).statusOk = true := by
  have hhead : (shownPhases (phasesOf i) t.status).headD .idle = (phasesOf i).headD .idle := headD_shownPhases _ _
  refine (statusOk_of_flight (openWindow_flight t _)).2
    ⟨flightOk_iff.2 ⟨by rw [openWindow_status, hhead], rfl, ?_, ?_, ht⟩, rfl⟩
  · intro hnil
    have h : shownPhases (phasesOf i) t.status = [] := hnil
    exact headD_phasesOf hi (by rw [← hhead, h]; rfl)
  · intro p hp hidle
    exact idle_notMem_phasesOf i (hidle ▸ (shownPhases_prefix (phasesOf i) t.status).subset hp)

theorem statusOk_tick {s : State} (hs : s.statusOk = true) : (tick s).statusOk = true := by
  rcases tick_cases s with ⟨-, h⟩ | ⟨f, hf, -, h⟩ | ⟨f, n, ps, hf, -, hps, h⟩
  · rwa [h]
  · obtain ⟨-, -, -, -, hlatch, -⟩ := flightOk_iff.1 ((statusOk_of_flight hf).1 hs).1
    rw [h]; exact hlatch
  · obtain ⟨hflight, hunseen⟩ := (statusOk_of_flight hf).1 hs
    obtain ⟨hst, hinfo, hne, hphases, hfinal⟩ := flightOk_iff.1 hflight
    obtain ⟨hsuf, hnonempty⟩ := advancePhases_suffix (Config.phaseAdvance s.cmdEra n) f.phases
    rw [← hps] at hsuf hnonempty
    obtain ⟨p, qs, rfl⟩ := List.exists_cons_of_ne_nil (hnonempty hne)
    rw [h]
    exact (statusOk_of_flight (f := { f with left := n, phases := p :: qs }) rfl).2
      ⟨flightOk_iff.2 ⟨by simp [hst], hinfo, by simp, fun q hq => hphases q (hsuf.subset hq), hfinal⟩, hunseen⟩

theorem statusOk_regWrite (d : Word) (r : Reg) (s : State) : (s.regWrite d r).statusOk = s.statusOk := by
  cases r with
  | srcData => simp only [State.regWrite]; split <;> rfl
  | _ => rfl

theorem statusOk_afterRead (r : Reg) (s : State) : (s.afterRead r).statusOk = s.statusOk := by
  cases r with
  | srcData | dstData => simp only [State.afterRead]; split <;> rfl
  | _ => rfl

theorem statusOk_seeIdle {s : State} (hs : s.statusOk = true) (hb : s.status.busy = false) : (seeIdle s).statusOk = true := by
  have hf := flight_of_not_busy hs hb
  rw [statusOk_of_idle (by simpa using hf)]
  exact statusOk_of_idle hf ▸ hs

theorem statusOk_hostRead {off : Nat} {s : State} (hs : s.statusOk = true) : (hostRead off s).statusOk = true := by
  unfold hostRead
  split
  · unfold busyRead; split <;> exact hs
  · next hb =>
    unfold idleRead; split
    · exact statusOk_seeIdle (s := reply s.status.word s) hs (by simpa using hb)
    · exact (statusOk_afterRead _ s).trans hs
    · exact hs

theorem statusOk_writeCmd {w : Word} {s t : State} (hs : s.statusOk = true) (h : writeCmd w s = .next t) :
    t.statusOk = true := by
  rcases writeCmd_next_cases h with rfl | ⟨-, hb, rfl⟩ | ⟨-, rfl⟩ | ⟨hr, rfl⟩ | ⟨i, u, -, hi, hr, hrun, rfl⟩
  · exact hs
  · have hf := flight_of_not_busy hs hb
    obtain ⟨-, hp, -⟩ := latchOk_iff.1 (statusOk_of_idle hf ▸ hs)
    rw [statusOk_of_idle (by simpa using hf)]
    exact latchOk_iff.2 ⟨hb, hp, rfl, rfl⟩
  · rfl
  · rw [statusOk_of_idle (s := illegalCommand w s) (status_of_ready hs hr).1]; rfl
  · exact statusOk_openWindow hi (latchOk_of_runUnits hs hr hrun)

/-- Settles O52: time, reads, register writes, command words and reset each keep the rules. -/
theorem stepKeepsTheStatusRules : Obligations.StepKeepsTheStatusRules := fun _ _ =>
  step_keeps (P := fun s => s.statusOk = true) (fun _ _ hs => hs) (fun _ => statusOk_tick) (fun _ _ => statusOk_hostRead)
    (fun d r s hs => (statusOk_regWrite d r s).trans hs) (fun _ _ _ => statusOk_writeCmd) (fun _ _ => rfl)

end Sys2Proof.Machine
end

section
/-! PROOFS. The sum of FREQ (R14): COUNT and PARSE, which alone write FREQ, keep it within N_MAX. Settles O54. -/

namespace Sys2Proof.Machine

/-- Writing one entry takes its old frequency out of the sum and puts the new one in. -/
theorem freqTotal_setSym (f : Vector Word 256) (b : Byte) (x : Word) :
    freqTotal (setSym f b x) + (atSym f b).toNat = freqTotal f + x.toNat := by
  have hlen : b.toNat < (f.toList.map BitVec.toNat).length := by simpa using b.isLt
  have hset : freqTotal (setSym f b x) = ((f.toList.map BitVec.toNat).set b.toNat x.toNat).sum := by
    simp [freqTotal, setSym, Vector.toList_set, List.map_set]
  have hsplit := List.sum_take_add_sum_drop (f.toList.map BitVec.toNat) b.toNat
  rw [List.drop_eq_getElem_cons hlen, List.sum_cons] at hsplit
  have hat : (f.toList.map BitVec.toNat)[b.toNat] = (atSym f b).toNat := by simp [atSym]
  rw [hat] at hsplit
  rw [hset, List.sum_set, if_pos hlen, freqTotal]
  omega

theorem freqTotal_zero : freqTotal (Vector.replicate 256 0) = 0 := by
  rw [freqTotal, Vector.toList_replicate, List.map_replicate, List.sum_replicate]; rfl

theorem freqTotal_tally_le (f : Vector Word 256) (b : Byte) : freqTotal (tally f b) ≤ freqTotal f + 1 := by
  have hsum := freqTotal_setSym f b (atSym f b + 1)
  have hinc : (atSym f b + 1).toNat ≤ (atSym f b).toNat + 1 := by
    rw [BitVec.toNat_add]; exact Nat.mod_le _ _
  simp only [tally]; omega

/-- The counter's entries sum to at most the number of bytes counted (R112 (a)). -/
theorem freqTotal_countBytes_le (bs : List Byte) : freqTotal (countBytes bs) ≤ bs.length := by
  have hfold : ∀ f : Vector Word 256, freqTotal (bs.foldl tally f) ≤ freqTotal f + bs.length := by
    induction bs with
    | nil => intro f; simp
    | cons b bs ih =>
      intro f
      have h1 := ih (tally f b)
      have h2 := freqTotal_tally_le f b
      simp only [List.foldl_cons, List.length_cons]; omega
  have h := hfold (Vector.replicate 256 0)
  rwa [freqTotal_zero, Nat.zero_add] at h

/-- A loaded table sums to at most the sum of its entries (R186). -/
theorem freqTotal_loadEntries_le (es : List (Byte × Word)) : freqTotal (loadEntries es) ≤ freqSum es := by
  have hfold : ∀ f : Vector Word 256, freqTotal (es.foldl (fun f e => setSym f e.1 e.2) f) ≤ freqTotal f + freqSum es := by
    induction es with
    | nil => intro f; simp
    | cons e es ih =>
      intro f
      have h1 := ih (setSym f e.1 e.2)
      have h2 := freqTotal_setSym f e.1 e.2
      have h3 : freqSum (e :: es) = e.2.toNat + freqSum es := by simp [freqSum]
      simp only [List.foldl_cons]; omega
  have h := hfold zeroFreq
  rwa [zeroFreq, freqTotal_zero, Nat.zero_add] at h

/-- What a container that passes all of PARSE's checks meets (R188). -/
theorem parseChecks_ok {s : State} {c : Parsed} (h : parseChecks s = .ok c) :
    s.srcLen.toNat ≤ s.bufBytes ∧ freqSum c.entries ≤ s.cfg.nMax ∧ s.srcLen.toNat = c.hdr + ceil8 c.bits := by
  simp only [parseChecks] at h
  repeat' split at h
  all_goals cases h
  exact ⟨by omega, by dsimp only; omega, by dsimp only; omega⟩

theorem freqOk_unitOf (p : Phase) {s : State} (hs : s.freqOk) : (unitOf p s).Holds State.freqOk := by
  cases p with
  | count =>
    simp only [unitOf, countUnit]; split
    · exact hs
    · have hlen : s.srcBytes.length = s.srcLen.toNat := by simp [State.srcBytes, State.srcSlice]
      have htotal := freqTotal_countBytes_le s.srcBytes
      exact (by omega : freqTotal (countBytes s.srcBytes) ≤ s.cfg.nMax)
  | parse =>
    simp only [unitOf, parseUnit]; split
    · exact (by rw [zeroFreq, freqTotal_zero]; exact Nat.zero_le _ : freqTotal zeroFreq ≤ s.cfg.nMax)
    · next c hc =>
      obtain ⟨-, hsum, -⟩ := parseChecks_ok hc
      exact (freqTotal_loadEntries_le c.entries).trans hsum
  | _ => exact (unitOf_writes _ s).imp fun t (h : t = _) => by rw [h]; exact hs

theorem freqOk_tableInvariant : TableInvariant State.freqOk where
  congr h hs := by
    have hfreq := congrArg Tables.freq h
    have hcfg := congrArg Tables.cfg h
    dsimp only [State.tables] at hfreq hcfg
    rwa [State.freqOk, hfreq, hcfg]
  reset s := by
    show freqTotal (Vector.replicate 256 0) ≤ s.cfg.nMax
    rw [freqTotal_zero]; exact Nat.zero_le _
  accept _ _ _ hs := hs
  unit p _ hs := freqOk_unitOf p hs

/-- Settles O54: the sum is an invariant of the tables. -/
theorem stepKeepsTheFrequencySum : Obligations.StepKeepsTheFrequencySum :=
  fun _ _ hs h => freqOk_tableInvariant.step hs h

end Sys2Proof.Machine
end

section
/-! PROOFS. The valid bytes of PAY and DST (R12, R13, R20): each byte the packer, the framer, the deframer and the unpacker
count has been stored. Settles O56. -/

namespace Sys2Proof.Machine

/-! ### Written bytes -/

namespace Memory
variable {cap n : Nat} {m : Memory}

theorem written_zero (cap : Nat) (m : Memory) : m.written cap 0 := ⟨Nat.zero_le _, fun _ h => absurd h (Nat.not_lt_zero _)⟩

theorem written_of_le {k : Nat} (h : m.written cap n) (hk : k ≤ n) : m.written cap k :=
  ⟨hk.trans h.1, fun i hi => h.2 i (hi.trans_le hk)⟩

/-- A store keeps what has been written. -/
theorem written_store (a : Nat) (v : Byte) (h : m.written cap n) : (m.store a v).written cap n := by
  refine ⟨h.1, fun i hi => ?_⟩
  by_cases hia : i = a
  · subst hia; simp [lookup_store_same]
  · rw [lookup_store_ne m v hia]; exact h.2 i hi

/-- A store just past the written bytes adds one to them. -/
theorem written_store_next (v : Byte) (h : m.written cap n) (hn : n < cap) : (m.store n v).written cap (n + 1) := by
  refine ⟨hn, fun i hi => ?_⟩
  by_cases hin : i = n
  · subst hin; simp [lookup_store_same]
  · exact (written_store n v h).2 i (by omega)

theorem written_storeList (m : Memory) {vs : List Byte} (h : vs.length ≤ cap) :
    (m.storeList 0 vs).written cap vs.length := by
  refine ⟨h, fun i hi => ?_⟩
  simp [lookup_storeList, hi]

end Memory

/-! ### The packer -/

/-- The packer between two bits: PAY[0..PK_P) is written, and BITLEN counts its bits and the collected ones. -/
structure PackerOk (cap : Nat) (p : Packer) : Prop where
  written : p.pay.written cap p.pkP
  bits : p.bitLen = 8 * p.pkP + p.accCnt
  partialByte : p.accCnt < 8

theorem packerOk_start (cap : Nat) (pay : Memory) : PackerOk cap (Packer.start pay) :=
  ⟨Memory.written_zero cap pay, rfl, Nat.zero_lt_succ 7⟩

theorem packerOk_appendBit {cap off : Nat} {p q : Packer} {b : Bool} (hp : PackerOk cap p)
    (h : appendBit cap off p b = .fine q) : PackerOk cap q := by
  obtain ⟨hw, hb, hc⟩ := hp
  simp only [appendBit] at h
  split at h
  · split at h
    · cases h
    · cases h
      exact ⟨Memory.written_store_next _ hw (by omega), by dsimp only; omega, Nat.zero_lt_succ 7⟩
  · cases h
    exact ⟨hw, by dsimp only; omega, by dsimp only; omega⟩

theorem packerOk_appendBits {cap off : Nat} {bs : List Bool} {p q : Packer} (hp : PackerOk cap p)
    (h : appendBits cap off bs p = .fine q) : PackerOk cap q := by
  induction bs generalizing p with
  | nil => cases h; exact hp
  | cons b bs ih =>
    simp only [appendBits] at h
    split at h
    · next hb => exact ih (packerOk_appendBit hp hb) h
    · cases h

/-- The final partial byte is the last of the payload (R156). -/
theorem flushLast_written {cap off : Nat} {p q : Packer} (hp : PackerOk cap p) (h : flushLast cap off p = .fine q) :
    q.pay.written cap (ceil8 q.bitLen) := by
  obtain ⟨hw, hb, hc⟩ := hp
  simp only [flushLast] at h
  split at h
  · split at h
    · cases h
    · cases h
      have hceil : ceil8 p.bitLen = p.pkP + 1 := by simp only [ceil8]; omega
      exact (hceil ▸ Memory.written_store_next _ hw (by omega) : Memory.written cap _ (ceil8 p.bitLen))
  · cases h
    have hceil : ceil8 p.bitLen = p.pkP := by simp only [ceil8]; omega
    exact hceil ▸ hw

/-- When PACK's loop ends without error, all bytes of the payload are written (R159 (d)). -/
theorem packLoop_written {cap : Nat} {code : Vector (Option Code) 256} {bs : List Byte} {i : Nat} {p q : Packer}
    (hp : PackerOk cap p) (h : packLoop cap code i bs p = .fine q) : q.pay.written cap (ceil8 q.bitLen) := by
  induction bs generalizing i p with
  | nil => exact flushLast_written hp h
  | cons b bs ih =>
    simp only [packLoop] at h
    split at h
    · cases h
    · split at h
      · next hb => exact ih (packerOk_appendBits hp hb) h
      · cases h

/-! ### The unpacker -/

section Unpack
variable {P : Unpacker → Prop} {nMax : Nat} {nodeAt : Nat → Node} {single : Bool} {root : BitVec 9}

/-- A property that moving in the tree and storing one symbol keep is kept by one micro-step, with or without an error. -/
theorem unpackBit_keeps (hcur : ∀ u c, P u → P { u with cur := c })
    (hstore : ∀ u b, P u → u.upO < nMax → P { u with upO := u.upO + 1, dst := Memory.store u.dst u.upO b })
    (j : Nat) (u : Unpacker) (bit : Bool) (hu : P u) : P (unpackBit nMax j nodeAt single root u bit).state := by
  have hemit : ∀ u b, P u → P (emit nMax j u b).state := by
    intro u b hu
    rcases emit_cases nMax j u b with ⟨hlt, he⟩ | ⟨-, he⟩ <;> rw [he]
    · exact hstore u b hu hlt
    · exact hu
  cases single
  · simp only [unpackBit, unpackMatch, Bool.false_eq_true, if_false]
    split
    · next sym _ _ =>
      have hnext :=
        hemit { u with cur := if bit then (nodeAt u.cur.toNat).high else (nodeAt u.cur.toNat).low } sym (hcur u _ hu)
      split
      · next he => rw [he] at hnext; exact hcur _ _ hnext
      · next he => rw [he] at hnext; exact hnext
    · exact hcur u _ hu
  · cases bit
    · exact hemit u _ hu
    · exact hu

/-- What micro-steps keep, UNPACK's loop keeps, with or without an error. -/
theorem unpackLoop_keeps (hcur : ∀ u c, P u → P { u with cur := c })
    (hstore : ∀ u b, P u → u.upO < nMax → P { u with upO := u.upO + 1, dst := Memory.store u.dst u.upO b })
    (j : Nat) (bits : List Bool) (u : Unpacker) (hu : P u) : P (unpackLoop nMax nodeAt single root j bits u).state := by
  induction bits generalizing j u with
  | nil => simp only [unpackLoop]; split <;> exact hu
  | cons bit bits ih =>
    have hbit := unpackBit_keeps (single := single) (root := root) (nodeAt := nodeAt) hcur hstore j u bit hu
    simp only [unpackLoop]
    split
    · next he => rw [he] at hbit; exact ih _ _ hbit
    · next he => rw [he] at hbit; exact hbit

end Unpack

theorem nMax_le_bufBytes (s : State) : s.cfg.nMax ≤ s.bufBytes := Nat.le_add_right _ _

/-- UNPACK's loop writes DST[0..UP_O). -/
theorem unpackRun_written (s : State) : (unpackRun s).state.dst.written s.bufBytes (unpackRun s).state.upO := by
  refine unpackLoop_keeps (P := fun u => u.dst.written s.bufBytes u.upO) (fun _ _ h => h) (fun u b hu hlt => ?_) _ _ _
    (Memory.written_zero _ _)
  exact Memory.written_store_next b hu (hlt.trans_le (nMax_le_bufBytes s))

/-- UNPACK's loop keeps what was written in DST. -/
theorem unpackRun_keeps_written {s : State} {n : Nat} (h : s.dst.written s.bufBytes n) :
    (unpackRun s).state.dst.written s.bufBytes n :=
  unpackLoop_keeps (P := fun u => u.dst.written s.bufBytes n) (fun _ _ h => h) (fun _ _ hu _ => Memory.written_store _ _ hu)
    _ _ _ h

/-! ### The framer -/

theorem length_beBytes (n v : Nat) : (beBytes n v).length = n := by simp [beBytes]

theorem length_headerBytes (f : Vector Word 256) (bits : Nat) :
    (headerBytes f bits).length = 6 + 5 * (presentSymbols f).length := by
  have hentries : ∀ bs : List Byte, (bs.flatMap (entryBytes f)).length = 5 * bs.length := by
    intro bs
    induction bs with
    | nil => rfl
    | cons b bs ih =>
      simp only [List.flatMap_cons, List.length_append, List.length_cons, entryBytes, length_beBytes, ih]; omega
  simp only [headerBytes, List.length_append, length_beBytes, hentries]; omega

/-- The container is as long as the length check says (R70, R181). -/
theorem length_frameBytes (s : State) : s.frameBytes.length = s.frameLen := by
  simp [State.frameBytes, State.frameLen, State.payBytes, State.kView, length_headerBytes]

/-! ### The invariant -/

/-- The valid payload and the valid output have been written (R12, R13). -/
def State.bytesOk (s : State) : Prop := s.payloadOk ∧ s.outputOk

theorem payloadOk_of_no_bits {s : State} (h : s.bitLen = 0) : s.payloadOk := by
  have hceil : ceil8 s.bitLen.toNat = 0 := by rw [h]; rfl
  rw [State.payloadOk, hceil]; exact Memory.written_zero _ _

/-- A length register holds at most the number stored in it. -/
theorem toNat_ofNat_le (w n : Nat) : (BitVec.ofNat w n).toNat ≤ n := by
  rw [BitVec.toNat_ofNat]; exact Nat.mod_le _ _

theorem ceil8_toNat_ofNat_le (w n : Nat) : ceil8 (BitVec.ofNat w n).toNat ≤ ceil8 n :=
  Nat.div_le_div_right (Nat.add_le_add_right (toNat_ofNat_le w n) 7)

theorem bytesOk_unitOf (p : Phase) {s : State} (hs : s.bytesOk) : (unitOf p s).Holds State.bytesOk := by
  obtain ⟨hpay, hdst⟩ := hs
  cases p with
  | idle | count | build | walk => exact (unitOf_writes _ s).imp fun t (h : t = _) => by rw [h]; exact ⟨hpay, hdst⟩
  | pack =>
    simp only [unitOf, packUnit]; split
    · exact ⟨payloadOk_of_no_bits rfl, hdst⟩
    · split
      · next q hq =>
        have hw := packLoop_written (packerOk_start s.bufBytes s.pay) hq
        exact ⟨Memory.written_of_le hw (ceil8_toNat_ofNat_le 32 q.bitLen), hdst⟩
      · exact ⟨payloadOk_of_no_bits rfl, hdst⟩
  | frame =>
    simp only [unitOf, frameUnit]; split
    · exact ⟨hpay, hdst⟩
    · have hw : (Memory.storeList s.dst 0 s.frameBytes).written s.bufBytes s.frameBytes.length :=
        Memory.written_storeList _ (by rw [length_frameBytes]; omega)
      rw [length_frameBytes] at hw
      exact ⟨hpay, Memory.written_of_le hw (toNat_ofNat_le 32 s.frameLen)⟩
  | parse =>
    simp only [unitOf, parseUnit]; split
    · exact ⟨payloadOk_of_no_bits rfl, hdst⟩
    · next c hc =>
      obtain ⟨hfit, -, hlen⟩ := parseChecks_ok hc
      have hslice : (s.srcSlice c.hdr (ceil8 c.bits)).length = ceil8 c.bits := by simp [State.srcSlice]
      have hw : (Memory.storeList s.pay 0 (s.srcSlice c.hdr (ceil8 c.bits))).written s.bufBytes
          (s.srcSlice c.hdr (ceil8 c.bits)).length := Memory.written_storeList _ (by omega)
      rw [hslice] at hw
      exact ⟨Memory.written_of_le hw (ceil8_toNat_ofNat_le 32 c.bits), hdst⟩
  | unpack =>
    simp only [unitOf, unpackUnit]; split
    · exact ⟨hpay, Memory.written_zero _ _⟩
    · split
      · exact ⟨hpay, hdst⟩
      · have hnew := unpackRun_written s
        have hold := unpackRun_keeps_written hdst
        split
        · next u hu => rw [hu] at hnew; exact ⟨hpay, Memory.written_of_le hnew (toNat_ofNat_le 32 u.upO)⟩
        · next hu => rw [hu] at hold; exact ⟨hpay, hold⟩

theorem bytesOk_tableInvariant : TableInvariant State.bytesOk where
  congr {s t} h hs := by
    have hcfg : t.cfg = s.cfg := congrArg Tables.cfg h
    have hpay : t.pay = s.pay := congrArg Tables.pay h
    have hdst : t.dst = s.dst := congrArg Tables.dst h
    have hbits : t.bitLen = s.bitLen := congrArg Tables.bitLen h
    have hlen : t.dstLen = s.dstLen := congrArg Tables.dstLen h
    simpa only [State.bytesOk, State.payloadOk, State.outputOk, State.bufBytes, hcfg, hpay, hdst, hbits, hlen] using hs
  reset _ := ⟨payloadOk_of_no_bits rfl, Memory.written_zero _ _⟩
  accept p c s hs := by
    obtain ⟨hpay, hdst⟩ := hs
    cases c
    · exact ⟨hpay, hdst⟩
    · exact ⟨hpay, Memory.written_zero _ _⟩
  unit p _ hs := bytesOk_unitOf p hs

/-- Settles O56: the written payload and output are an invariant of the tables. -/
theorem stepKeepsTheValidBytesWritten : Obligations.StepKeepsTheValidBytesWritten :=
  fun _ _ hpay hdst h => bytesOk_tableInvariant.step ⟨hpay, hdst⟩ h

end Sys2Proof.Machine
end

section
/-! PROOFS. The tree builder (R120 to R125): one merge keeps the invariant of the arena and the queue, so the loop ends with a
tree whose root is the one queue member. Settles O12. -/

namespace Sys2Proof.Machine

/-! ### The arena -/

theorem getElem?_concat_eq_some {α : Type} {xs : List α} {x y : α} {i : Nat} (h : (xs ++ [x])[i]? = some y) :
    xs[i]? = some y ∨ (i = xs.length ∧ y = x) := by
  rcases Nat.lt_trichotomy i xs.length with hlt | rfl | hgt
  · rw [List.getElem?_append_left hlt] at h; exact .inl h
  · rw [List.getElem?_concat_length, Option.some.injEq] at h; exact .inr ⟨rfl, h.symm⟩
  · rw [List.getElem?_eq_none (by simp; omega)] at h; cases h

theorem arenaFreq_append {ns : List Node} {i : Nat} (ms : List Node) (h : i < ns.length) :
    arenaFreq (ns ++ ms) i = arenaFreq ns i := by
  rw [arenaFreq, arenaFreq, List.getElem?_append_left h]

theorem arenaFreq_concat_length (ns : List Node) (n : Node) : arenaFreq (ns ++ [n]) ns.length = n.freq := by
  rw [arenaFreq, List.getElem?_concat_length]

/-- The frequencies of all entries, by index. -/
theorem map_range_arenaFreq (ns : List Node) : (List.range ns.length).map (arenaFreq ns) = ns.map Node.freq := by
  refine List.ext_getElem (by simp) fun i h₁ h₂ => ?_
  have hi : i < ns.length := by simpa using h₂
  simp [arenaFreq, hi]

theorem children_mergeNode {ns : List Node} {a b : Nat} (ha : a < 512) (hb : b < 512) :
    (mergeNode ns a b).children = [a, b] := by
  simp [mergeNode, Node.children, Nat.mod_eq_of_lt ha, Nat.mod_eq_of_lt hb]

/-! ### The leaves -/

theorem length_leavesOf (f : Vector Word 256) : (leavesOf f).length = (presentSymbols f).length := by simp [leavesOf]

/-- There is one leaf at most for each of the 256 symbols. -/
theorem length_leavesOf_le (f : Vector Word 256) : (leavesOf f).length ≤ 256 := by
  rw [length_leavesOf, presentSymbols_eq_filter]
  exact (List.length_filter_le _ _).trans (by simp [symbols])

theorem isInternal_of_mem_leavesOf {f : Vector Word 256} {n : Node} (h : n ∈ leavesOf f) : n.isInternal = false := by
  obtain ⟨b, -, rfl⟩ := List.mem_map.1 h; rfl

theorem children_eq_nil {n : Node} (h : n.isInternal = false) : n.children = [] := by
  cases n with
  | leaf => rfl
  | internal => cases h

/-- The leaves' symbols rise. -/
theorem leavesOf_ascending (f : Vector Word 256) : ((leavesOf f).map fun n => n.sym.toNat).Pairwise (· < ·) := by
  have hsymbols : symbols.Pairwise fun a b => a.toNat < b.toNat := by
    rw [symbols, List.pairwise_map]
    refine List.pairwise_lt_range.imp_of_mem fun ha hb hab => ?_
    rw [List.mem_range] at ha hb
    simpa [Nat.mod_eq_of_lt ha, Nat.mod_eq_of_lt hb] using hab
  rw [leavesOf, List.map_map, List.pairwise_map, presentSymbols_eq_filter]
  exact hsymbols.filter _

/-- The leaves' frequencies sum to the table's: the entries left out are 0. -/
theorem sum_freq_leavesOf (f : Vector Word 256) : ((leavesOf f).map fun n => n.freq.toNat).sum = freqTotal f := by
  have hfilter : ∀ bs : List Byte, ((bs.filter fun b => atSym f b != 0).map fun b => (atSym f b).toNat).sum =
      (bs.map fun b => (atSym f b).toNat).sum := by
    intro bs
    induction bs with
    | nil => rfl
    | cons b bs ih =>
      rw [List.filter_cons]
      split
      · simp only [List.map_cons, List.sum_cons, ih]
      · next hb =>
        have hzero : atSym f b = 0 := by simpa using hb
        rw [List.map_cons, List.sum_cons, ih, hzero]; exact (Nat.zero_add _).symm
  rw [freqTotal_eq_sum, ← hfilter, leavesOf, List.map_map, presentSymbols_eq_filter]; rfl

/-! ### One merge -/

theorem pqMin_mem (nodes : List Node) {q : List Nat} (h : q ≠ []) : pqMin nodes q ∈ q := by
  have hfold : ∀ (is : List Nat) (i : Nat), is.foldl (keyMin nodes) i ∈ i :: is := by
    intro is
    induction is with
    | nil => intro i; simp
    | cons j is ih =>
      intro i
      have hmin : keyMin nodes i j = i ∨ keyMin nodes i j = j := by
        simp only [keyMin]; split
        · exact .inr rfl
        · exact .inl rfl
      have hmem := ih (keyMin nodes i j)
      rw [List.foldl_cons]
      rcases hmin with he | he <;> rw [he] at hmem ⊢ <;> simp only [List.mem_cons] at hmem ⊢ <;> tauto
  cases q with
  | nil => exact absurd rfl h
  | cons i is => exact hfold is i

/-- A merge takes two members off the queue, and appends the node over them, which enters the queue (R120, R124). -/
theorem mergeStep_eq {b : Builder} (h : 1 < b.inq.length) :
    ∃ lo hi rest, b.inq.Perm (lo :: hi :: rest) ∧
      mergeStep b = ⟨b.nodes ++ [mergeNode b.nodes lo hi], rest ++ [b.nodes.length]⟩ := by
  have hlo : pqMin b.nodes b.inq ∈ b.inq := pqMin_mem _ (List.ne_nil_of_length_pos (by omega))
  have hlen := List.length_erase_of_mem hlo
  have hhi : pqMin b.nodes (b.inq.erase (pqMin b.nodes b.inq)) ∈ b.inq.erase (pqMin b.nodes b.inq) :=
    pqMin_mem _ (List.ne_nil_of_length_pos (by omega))
  exact ⟨_, _, _, (List.perm_cons_erase hlo).trans ((List.perm_cons_erase hhi).cons _), rfl⟩

/-- The invariant of BUILD's loop over the table `f`: the leaves, then internal nodes with smaller children; every node but
the queue's members is the child of one node; the frequencies in the queue sum to the table's, modulo 2^32. -/
structure BuilderOk (f : Vector Word 256) (b : Builder) : Prop where
  arena : ∃ ms, b.nodes = leavesOf f ++ ms ∧ ∀ n ∈ ms, n.isInternal = true
  count : b.nodes.length + b.inq.length = 2 * (leavesOf f).length
  newest : leavesOf f ≠ [] → b.inq.getLast? = some (b.nodes.length - 1)
  inArena : ∀ i ∈ b.inq, i < b.nodes.length
  below : ∀ i (n : Node), b.nodes[i]? = some n → ∀ c ∈ n.children, c < i
  oneParent : (b.nodes.flatMap Node.children ++ b.inq).Nodup
  sums : ∀ (i : Nat) (w : Word) (l h : BitVec 9), b.nodes[i]? = some (Node.internal w l h) →
    w = arenaFreq b.nodes l.toNat + arenaFreq b.nodes h.toNat
  total : (b.inq.map fun i => (arenaFreq b.nodes i).toNat).sum ≡ freqTotal f [MOD 2 ^ 32]

theorem flatMap_children_leavesOf (f : Vector Word 256) : (leavesOf f).flatMap Node.children = [] :=
  List.flatMap_eq_nil_iff.2 fun _ hn => children_eq_nil (isInternal_of_mem_leavesOf hn)

theorem builderOk_loadLeaves (f : Vector Word 256) : BuilderOk f (loadLeaves f) where
  arena := ⟨[], by simp [loadLeaves], by simp⟩
  count := by simp only [loadLeaves, List.length_range]; omega
  newest h := by
    have hpos := List.length_pos_of_ne_nil h
    simp [loadLeaves, List.getLast?_range]; omega
  inArena i hi := List.mem_range.1 hi
  below i n hn c hc := by
    rw [children_eq_nil (isInternal_of_mem_leavesOf (List.mem_of_getElem? hn))] at hc; cases hc
  oneParent := by
    simp only [loadLeaves, flatMap_children_leavesOf, List.nil_append]; exact List.nodup_range
  sums i w l h hn := by cases isInternal_of_mem_leavesOf (List.mem_of_getElem? hn)
  total := by
    have hmap := congrArg (List.map BitVec.toNat) (map_range_arenaFreq (leavesOf f))
    rw [List.map_map, List.map_map] at hmap
    have hsum := sum_freq_leavesOf f
    exact congrArg (· % 2 ^ 32) ((congrArg List.sum hmap).trans hsum)

/-- A child lies in the arena. -/
theorem BuilderOk.children_lt {f : Vector Word 256} {b : Builder} (hb : BuilderOk f b) {c : Nat}
    (hc : c ∈ b.nodes.flatMap Node.children) : c < b.nodes.length := by
  obtain ⟨n, hn, hcn⟩ := List.mem_flatMap.1 hc
  obtain ⟨i, hi⟩ := List.getElem?_of_mem hn
  exact (hb.below i n hi c hcn).trans (List.getElem?_eq_some_iff.1 hi).1

theorem builderOk_mergeStep {f : Vector Word 256} {b : Builder} (hb : BuilderOk f b) (h : 1 < b.inq.length) :
    BuilderOk f (mergeStep b) ∧ (mergeStep b).inq.length + 1 = b.inq.length := by
  obtain ⟨lo, hi, rest, hperm, hstep⟩ := mergeStep_eq h
  have hlen := hperm.length_eq
  have hk := length_leavesOf_le f
  have hcount := hb.count
  have hlo : lo < b.nodes.length := hb.inArena lo (hperm.mem_iff.2 (by simp))
  have hhi : hi < b.nodes.length := hb.inArena hi (hperm.mem_iff.2 (by simp))
  have hrest : ∀ i ∈ rest, i < b.nodes.length := fun i hi => hb.inArena i (hperm.mem_iff.2 (by simp [hi]))
  have hchildren : (mergeNode b.nodes lo hi).children = [lo, hi] := children_mergeNode (by omega) (by omega)
  simp only [List.length_cons] at hlen
  rw [hstep]
  refine ⟨⟨?arena, ?count, ?newest, ?inArena, ?below, ?oneParent, ?sums, ?total⟩, by simp; omega⟩
  case arena =>
    obtain ⟨ms, hms, hint⟩ := hb.arena
    refine ⟨ms ++ [mergeNode b.nodes lo hi], by simp [hms], fun n hn => ?_⟩
    rcases List.mem_append.1 hn with hn | hn
    · exact hint n hn
    · rw [List.mem_singleton.1 hn]; rfl
  case count => simp; omega
  case newest => simp
  case inArena =>
    intro i hi
    simp only [List.mem_append, List.mem_singleton, List.length_append, List.length_singleton] at hi ⊢
    rcases hi with hi | rfl
    · exact (hrest i hi).trans (Nat.lt_succ_self _)
    · exact Nat.lt_succ_self _
  case below =>
    intro i n hn c hc
    rcases getElem?_concat_eq_some hn with hn | ⟨rfl, rfl⟩
    · exact hb.below i n hn c hc
    · rw [hchildren] at hc
      rcases List.mem_pair.1 hc with rfl | rfl
      · exact hlo
      · exact hhi
  case oneParent =>
    have hold : (b.nodes.flatMap Node.children ++ (lo :: hi :: rest) ++ [b.nodes.length]).Nodup := by
      refine List.Nodup.append ((hperm.append_left _).nodup_iff.1 hb.oneParent) (List.nodup_singleton _) ?_
      intro c hc hnew
      rw [List.mem_singleton.1 hnew] at hc
      rcases List.mem_append.1 hc with hc | hc
      · exact Nat.lt_irrefl _ (hb.children_lt hc)
      · exact Nat.lt_irrefl _ (hb.inArena _ (hperm.mem_iff.2 hc))
    simpa [hchildren] using hold
  case sums =>
    intro i w l r hn
    rcases getElem?_concat_eq_some hn with hn | ⟨-, hnew⟩
    · have hi := (List.getElem?_eq_some_iff.1 hn).1
      have hl := (hb.below i _ hn l.toNat (by simp [Node.children])).trans hi
      have hr := (hb.below i _ hn r.toNat (by simp [Node.children])).trans hi
      rw [arenaFreq_append _ hl, arenaFreq_append _ hr]
      exact hb.sums i w l r hn
    · simp only [mergeNode, Node.internal.injEq] at hnew
      obtain ⟨rfl, rfl, rfl⟩ := hnew
      have hlo' : (BitVec.ofNat 9 lo).toNat = lo := Nat.mod_eq_of_lt (by omega)
      have hhi' : (BitVec.ofNat 9 hi).toNat = hi := Nat.mod_eq_of_lt (by omega)
      simp only [hlo', hhi', arenaFreq_append _ hlo, arenaFreq_append _ hhi]
  case total =>
    have hsame : (rest.map fun i => (arenaFreq (b.nodes ++ [mergeNode b.nodes lo hi]) i).toNat) =
        rest.map fun i => (arenaFreq b.nodes i).toNat :=
      List.map_congr_left fun i hi => by rw [arenaFreq_append _ (hrest i hi)]
    have hfreq : (mergeNode b.nodes lo hi).freq = arenaFreq b.nodes lo + arenaFreq b.nodes hi := rfl
    have hold := (hperm.map fun i => (arenaFreq b.nodes i).toNat).sum_eq
    have htotal := hb.total
    rw [hold] at htotal
    simp only [List.map_append, List.map_cons, List.map_nil, List.sum_append, List.sum_cons, List.sum_nil, hsame,
      arenaFreq_concat_length, hfreq, BitVec.toNat_add, Nat.ModEq] at htotal ⊢
    omega

/-- BUILD's loop ends with at most one member in the queue (R125). -/
theorem builderOk_mergeLoop {f : Vector Word 256} (n : Nat) {b : Builder} (hb : BuilderOk f b)
    (hn : b.inq.length ≤ n + 1) : BuilderOk f (mergeLoop n b) ∧ (mergeLoop n b).inq.length ≤ 1 := by
  induction n generalizing b with
  | zero => exact ⟨hb, hn⟩
  | succ n ih =>
    simp only [mergeLoop]
    split
    · next hgt =>
      obtain ⟨hok, hlen⟩ := builderOk_mergeStep hb hgt
      exact ih hok (by omega)
    · exact ⟨hb, by omega⟩

theorem buildTree_ok (f : Vector Word 256) : BuilderOk f (buildTree f) ∧ (buildTree f).inq.length ≤ 1 :=
  builderOk_mergeLoop _ (builderOk_loadLeaves f) (Nat.le_succ _)

/-! ### The tree -/

theorem take_buildTree (f : Vector Word 256) : (buildTree f).nodes.take (leavesOf f).length = leavesOf f := by
  obtain ⟨ms, hms, -⟩ := (buildTree_ok f).1.arena
  rw [hms, List.take_left]

/-- The one queue member is the last node (R125, R17). -/
theorem inq_buildTree {f : Vector Word 256} (h : leavesOf f ≠ []) :
    (buildTree f).inq = [(buildTree f).nodes.length - 1] := by
  obtain ⟨hok, hlen⟩ := buildTree_ok f
  have hlast := hok.newest h
  match hq : (buildTree f).inq with
  | [] => rw [hq] at hlast; cases hlast
  | [i] => rw [hq] at hlast; simpa using hlast
  | i :: j :: is => rw [hq] at hlen; simp at hlen

/-- 2k - 1 nodes, or none (R16 (a)). -/
theorem length_buildTree (f : Vector Word 256) : (buildTree f).nodes.length = 2 * (leavesOf f).length - 1 := by
  obtain ⟨hok, hlen⟩ := buildTree_ok f
  have hcount := hok.count
  by_cases h : leavesOf f = []
  · rw [h, List.length_nil] at hcount ⊢; omega
  · have hq : (buildTree f).inq.length = 1 := by rw [inq_buildTree h]; rfl
    omega

/-- The tree of every frequency table is a tree of R16. -/
theorem treeShape_buildTree (f : Vector Word 256) : TreeShape (leavesOf f).length (buildTree f).nodes where
  size := length_buildTree f
  fits := length_leavesOf_le f
  leaves n hn := isInternal_of_mem_leavesOf (take_buildTree f ▸ hn)
  internals := by
    obtain ⟨ms, hms, hint⟩ := (buildTree_ok f).1.arena
    rw [hms, List.drop_left]; exact hint
  ascending := by rw [take_buildTree]; exact leavesOf_ascending f
  below := (buildTree_ok f).1.below
  oneParent := (List.nodup_append.1 (buildTree_ok f).1.oneParent).1
  sums := (buildTree_ok f).1.sums

/-- The root's frequency is the sum of the table, modulo 2^32. -/
theorem rootFreq_buildTree {f : Vector Word 256} (h : leavesOf f ≠ []) :
    (arenaFreq (buildTree f).nodes ((buildTree f).nodes.length - 1)).toNat = freqTotal f % 2 ^ 32 := by
  have htotal := (buildTree_ok f).1.total
  rw [inq_buildTree h] at htotal
  simp only [List.map_cons, List.map_nil, List.sum_cons, List.sum_nil, Nat.add_zero, Nat.ModEq] at htotal
  rw [← htotal, Nat.mod_eq_of_lt (BitVec.isLt _)]

theorem nodes_buildTree_eq_nil {f : Vector Word 256} : (buildTree f).nodes = [] ↔ leavesOf f = [] := by
  rw [← List.length_eq_zero_iff, ← List.length_eq_zero_iff, length_buildTree]; omega

/-- NODE_CNT holds the number of nodes. -/
theorem nodeCnt_buildTree (f : Vector Word 256) :
    (BitVec.ofNat 9 (buildTree f).nodes.length).toNat = (buildTree f).nodes.length := by
  have hk := length_leavesOf_le f
  have hlen := length_buildTree f
  exact Nat.mod_eq_of_lt (by omega)

/-- NODE, INQ and NODE_CNT are the tree of FREQ, as BUILD writes them (R120). -/
def State.holdsTreeOf (s : State) (f : Vector Word 256) : Prop :=
  s.node = (buildTree f).nodes ∧ s.inq = (buildTree f).inq ∧ s.nodeCnt = BitVec.ofNat 9 (buildTree f).nodes.length

theorem treeOk_of_holdsTreeOf {s : State} {f : Vector Word 256} (h : s.holdsTreeOf f) : s.treeOk := by
  obtain ⟨hnode, hinq, hcnt⟩ := h
  refine ⟨by rw [hcnt, hnode, nodeCnt_buildTree], ⟨_, hnode ▸ treeShape_buildTree f⟩, ?_⟩
  rw [hnode, hinq]
  split
  · next hnil =>
    have hcount := (buildTree_ok f).1.count
    rw [hnil, nodes_buildTree_eq_nil.1 hnil] at hcount
    simpa using hcount
  · next hne => exact inq_buildTree (fun h => hne (nodes_buildTree_eq_nil.2 h))

/-- An accepted BUILD completes without error, and NODE, INQ and NODE_CNT are the tree of FREQ. -/
theorem exec_build_finishes {s : State} (hs : s.statusOk = true) (hr : s.ready = true) :
    ∃ t, exec .build s = .next t ∧ t.status = Status.finished ∧ t.errInfo = 0 ∧ t.holdsTreeOf s.freq := by
  obtain ⟨-, hst, hinfo⟩ := status_of_ready hs hr
  have hfinal : (⟨false, true, s.status.err, .idle, s.status.ephase⟩ : Status) = Status.finished := by rw [hst]; rfl
  exact ⟨_, exec_of_ready rfl hr, hfinal, hinfo, rfl, rfl, rfl⟩

/-- Settles O12: the invariant of BUILD's loop, read at its end. -/
theorem buildMakesTheTree : Obligations.BuildMakesTheTree := by
  intro s hs hr
  obtain ⟨t, hexec, hst, hinfo, htree⟩ := exec_build_finishes hs hr
  obtain ⟨hnode, hinq, hcnt⟩ := id htree
  have hk : s.kView = (leavesOf s.freq).length := (length_leavesOf s.freq).symm
  have hcntNat : t.nodeCnt.toNat = (buildTree s.freq).nodes.length := by rw [hcnt, nodeCnt_buildTree]
  have hlen := length_buildTree s.freq
  refine ⟨t, hexec, hst, hinfo, ?_, treeOk_of_holdsTreeOf htree, ?_, ?_, fun hpos => ?_⟩
  · rw [hk, hnode]; exact treeShape_buildTree s.freq
  · rw [hk, hnode, take_buildTree]; rfl
  · rw [hcntNat, hlen, hk]; split <;> omega
  · have hne : leavesOf s.freq ≠ [] := List.ne_nil_of_length_pos (by omega)
    refine ⟨by rw [hinq, inq_buildTree hne, hcntNat], fun hsum => ?_⟩
    have hroot := rootFreq_buildTree hne
    rw [Nat.mod_eq_of_lt hsum] at hroot
    have hlt : (buildTree s.freq).nodes.length - 1 < (buildTree s.freq).nodes.length := by omega
    rw [← hroot, hcntNat, State.nodeAt, hnode, arenaFreq, List.getElem?_eq_getElem hlt]; rfl

end Sys2Proof.Machine
end

section
/-! PROOFS. The code-table generator (R141 to R143): over a tree with k leaves a path is at most k - 1 steps long, so no
length or value of a code wraps around. Settles O55. -/

namespace Sys2Proof.Machine

/-! ### Trees -/

/-- In a tree the entries from `k` on, and no others, are internal (R16 (b)). -/
theorem TreeShape.isInternal_iff {k m : Nat} {ns : List Node} {n : Node} (ht : TreeShape k ns) (h : ns[m]? = some n) :
    n.isInternal = true ↔ k ≤ m := by
  obtain ⟨hm, rfl⟩ := List.getElem?_eq_some_iff.1 h
  constructor
  · intro hint
    by_contra hlt
    rw [ht.leaves _ (List.mem_take_iff_getElem.2 ⟨m, by omega, rfl⟩)] at hint
    cases hint
  · intro hk
    refine ht.internals _ (List.mem_drop_iff_getElem.2 ⟨m - k, by omega, ?_⟩)
    congr 1; omega

theorem nodeAt_eq {s : State} {m : Nat} (h : m < s.node.length) : s.node[m]? = some (s.nodeAt m) := by
  rw [State.nodeAt, List.getElem?_eq_getElem h]; rfl

/-! ### Paths -/

/-- The codes of a table: 1 to 255 bits, and no bit above them (R18). -/
def codesWf (codes : Vector (Option Code) 256) : Prop :=
  ∀ b c, atSym codes b = some c → 1 ≤ c.len.toNat ∧ c.val.toNat < 2 ^ c.len.toNat

theorem codesWf_emptyCodes : codesWf emptyCodes := by
  intro b c h; rw [emptyCodes, atSym_replicate] at h; cases h

theorem codesWf_setSym {codes : Vector (Option Code) 256} {c : Code} (b : Byte) (h : codesWf codes)
    (hlen : 1 ≤ c.len.toNat) (hval : c.val.toNat < 2 ^ c.len.toNat) : codesWf (setSym codes b (some c)) := by
  intro a d hd
  by_cases hab : a = b
  · subst hab
    rw [atSym_setSym_same, Option.some.injEq] at hd
    exact hd ▸ ⟨hlen, hval⟩
  · rw [atSym_setSym_ne _ _ hab] at hd; exact h a d hd

/-- A path on the walker's stack, in a tree with `k` leaves and the root `2k - 2`: every step went down at least one index, from
an internal node; the path is empty at an internal node only. -/
structure PathOk (k : Nat) (e : WalkEntry) : Prop where
  down : e.node.toNat + e.len.toNat ≤ 2 * k - 2
  short : e.len.toNat < k
  value : e.val.toNat < 2 ^ e.len.toNat
  nonempty : e.len.toNat = 0 → k ≤ e.node.toNat

/-- The path to either child of an internal node. -/
theorem PathOk.step {k : Nat} {e : WalkEntry} {child : BitVec 9} (he : PathOk k e) (hk : k ≤ 256)
    (hint : k ≤ e.node.toNat) (hchild : child.toNat < e.node.toNat) :
    PathOk k ⟨child, e.len + 1, 2 * e.val⟩ ∧ PathOk k ⟨child, e.len + 1, 2 * e.val + 1⟩ := by
  obtain ⟨hdown, hshort, hval, -⟩ := he
  have hlen : (e.len + 1).toNat = e.len.toNat + 1 := by
    rw [BitVec.toNat_add]; exact Nat.mod_eq_of_lt (by simp; omega)
  have hpow : 2 ^ (e.len.toNat + 1) ≤ 2 ^ 255 := Nat.pow_le_pow_right (by decide) (by omega)
  have hdouble : (2 * e.val).toNat = 2 * e.val.toNat := by
    rw [BitVec.toNat_mul]; exact Nat.mod_eq_of_lt (by simp; omega)
  have hodd : (2 * e.val + 1).toNat = 2 * e.val.toNat + 1 := by
    rw [BitVec.toNat_add, hdouble]; exact Nat.mod_eq_of_lt (by simp; omega)
  constructor <;> constructor <;> simp only [hlen, hdouble, hodd] <;> omega

/-- Over a tree with `k` leaves the walk writes well-formed codes alone. -/
theorem codesWf_walkLoop {nodeAt : Nat → Node} {k : Nat} (hk : k ≤ 256)
    (hleaf : ∀ m ≤ 2 * k - 2, (nodeAt m).isInternal = true ↔ k ≤ m)
    (hbelow : ∀ m ≤ 2 * k - 2, ∀ c ∈ (nodeAt m).children, c < m) (fuel : Nat) {stack : List WalkEntry}
    {codes codes' : Vector (Option Code) 256} (hstack : ∀ e ∈ stack, PathOk k e) (hcodes : codesWf codes)
    (h : walkLoop nodeAt fuel stack codes = some codes') : codesWf codes' := by
  induction fuel generalizing stack codes with
  | zero =>
    cases stack with
    | nil => cases h; exact hcodes
    | cons e stack => cases h
  | succ fuel ih =>
    cases stack with
    | nil => cases h; exact hcodes
    | cons e stack =>
      have he : PathOk k e := hstack e List.mem_cons_self
      have hrest : ∀ e ∈ stack, PathOk k e := fun e h => hstack e (List.mem_cons_of_mem _ h)
      have hm : e.node.toNat ≤ 2 * k - 2 := (Nat.le_add_right _ _).trans he.down
      simp only [walkLoop] at h
      split at h
      · next sym f hn =>
        have hlt : ¬ k ≤ e.node.toNat := fun hge => by
          have hint := (hleaf _ hm).2 hge; rw [hn] at hint; cases hint
        have hpos : 1 ≤ e.len.toNat := Nat.one_le_iff_ne_zero.2 fun h0 => hlt (he.nonempty h0)
        exact ih hrest (codesWf_setSym sym hcodes hpos he.value) h
      · next f low high hn =>
        have hint : k ≤ e.node.toNat := (hleaf _ hm).1 (by rw [hn]; rfl)
        have hlow := (he.step hk hint (hbelow _ hm low.toNat (by simp [hn, Node.children]))).1
        have hhigh := (he.step hk hint (hbelow _ hm high.toNat (by simp [hn, Node.children]))).2
        refine ih (fun e' he' => ?_) hcodes h
        rcases List.mem_cons.1 he' with rfl | he'
        · exact hlow
        · rcases List.mem_cons.1 he' with rfl | he'
          · exact hhigh
          · exact hrest e' he'

/-- WALK over a tree writes well-formed codes (R18, R141 to R143). -/
theorem codesWf_walkTable {s : State} {codes : Vector (Option Code) 256} (hs : s.treeOk) (h : walkTable s = some codes) :
    codesWf codes := by
  obtain ⟨hcnt, ⟨k, ht⟩, -⟩ := hs
  have hsize := ht.size
  have hk := ht.fits
  simp only [walkTable] at h
  split at h
  · cases h; exact codesWf_emptyCodes
  · next h0 =>
    split at h
    · cases h; exact codesWf_setSym _ codesWf_emptyCodes (by decide) (by decide)
    · next h1 =>
      have hpos : s.nodeCnt.toNat ≠ 0 := fun h => h0 (BitVec.eq_of_toNat_eq h)
      have hne : s.nodeCnt.toNat ≠ 1 := fun h => h1 (BitVec.eq_of_toNat_eq h)
      have hroot : (s.nodeCnt - 1).toNat = s.nodeCnt.toNat - 1 := by
        rw [BitVec.toNat_sub_of_le (by rw [BitVec.le_def]; exact Nat.one_le_iff_ne_zero.2 hpos)]; rfl
      refine codesWf_walkLoop hk (fun m hm => ht.isInternal_iff (nodeAt_eq (by omega)))
        (fun m hm => ht.below m _ (nodeAt_eq (by omega))) _ (fun e he => ?_) codesWf_emptyCodes h
      rw [List.mem_singleton.1 he]
      exact
        { down := (by omega : (s.nodeCnt - 1).toNat + 0 ≤ 2 * k - 2)
          short := (by omega : 0 < k)
          value := (by decide : 0 < 2 ^ 0)
          nonempty := fun _ => (by omega : k ≤ (s.nodeCnt - 1).toNat) }

/-! ### The invariant -/

/-- The invariants of NODE and CODE together (R15 to R18). -/
def State.tablesOk (s : State) : Prop := s.treeOk ∧ s.codesOk

theorem tablesOk_unitOf (p : Phase) {s : State} (hs : s.tablesOk) : (unitOf p s).Holds State.tablesOk := by
  obtain ⟨htree, hcodes⟩ := hs
  cases p with
  | build => exact ⟨treeOk_of_holdsTreeOf (f := s.freq) ⟨rfl, rfl, rfl⟩, hcodes⟩
  | walk =>
    simp only [unitOf, walkUnit]; split
    · next hwalk => exact ⟨htree, codesWf_walkTable htree hwalk⟩
    · trivial
  | _ => exact (unitOf_writes _ s).imp fun t (h : t = _) => by rw [h]; exact ⟨htree, hcodes⟩

theorem treeShape_nil : TreeShape 0 [] where
  size := rfl
  fits := Nat.zero_le _
  leaves _ h := by cases h
  internals _ h := by cases h
  ascending := List.Pairwise.nil
  below i n h := by simp at h
  oneParent := List.nodup_nil
  sums i f l h hn := by simp at hn

theorem tablesOk_tableInvariant : TableInvariant State.tablesOk where
  congr {s t} h hs := by
    have hnode : t.node = s.node := congrArg Tables.node h
    have hinq : t.inq = s.inq := congrArg Tables.inq h
    have hcnt : t.nodeCnt = s.nodeCnt := congrArg Tables.nodeCnt h
    have hcode : t.code = s.code := congrArg Tables.code h
    simpa only [State.tablesOk, State.treeOk, State.codesOk, hnode, hinq, hcnt, hcode] using hs
  reset _ := ⟨⟨rfl, ⟨0, treeShape_nil⟩, rfl⟩, codesWf_emptyCodes⟩
  accept _ _ _ hs := hs
  unit p _ hs := tablesOk_unitOf p hs

/-- Settles O55: the tree and its codes are an invariant of the tables. -/
theorem stepKeepsTheTreeAndTheCodes : Obligations.StepKeepsTheTreeAndTheCodes :=
  fun _ _ htree hcodes h => tablesOk_tableInvariant.step ⟨htree, hcodes⟩ h

end Sys2Proof.Machine
end

section
/-! PROOFS. The host interface: how a step performs an operation and runs a command word, and what the registers and ports
read and keep (R20 to R29, R41, R90). Settles O4, O43, O44, O45 and O46. -/

namespace Sys2Proof.Machine

/-! ### Transactions -/

/-- Inside the interface, where R236 allows it, a transaction has its effect. -/
theorem transaction_allowed {off : Nat} {op : HostOp} {s : State} (h4 : off % 4 = 0) (hmax : off ≤ 0xFC)
    (hallow : s.unseen = false ∨ allowedUnseen op = true) (o : Host.Outcome State Fault Refusal) :
    transaction off op s o = o := by
  have hwf : transactionWf 32 off = true := by simp [transactionWf, h4, hmax]
  rcases transaction_cases off op s o with ⟨h, -⟩ | ⟨-, hu, ha, -⟩ | ⟨-, -, h⟩
  · rw [hwf] at h; cases h
  · rw [hu, ha] at hallow; simp at hallow
  · exact h

theorem step_read {s : State} {off : Nat} {rest : List HostOp} (hq : s.host = .read off :: rest) (h4 : off % 4 = 0)
    (hmax : off ≤ 0xFC) (hallow : s.unseen = false ∨ allowedUnseen (.read off) = true) :
    step s = .next (hostRead off (tick { s with host := rest })) := by
  simp only [step, hq, hostStep]
  exact transaction_allowed h4 hmax hallow _

theorem step_write {s : State} {off : Nat} {d : Word} {rest : List HostOp} (hq : s.host = .write off d :: rest)
    (h4 : off % 4 = 0) (hmax : off ≤ 0xFC) (hallow : s.unseen = false ∨ allowedUnseen (.write off d) = true) :
    step s = hostWrite off d (tick { s with host := rest }) := by
  simp only [step, hq, hostStep]
  exact transaction_allowed h4 hmax hallow _

/-! ### Command words -/

/-- A word with `rsv` = 0 is its opcode, zero-extended (R60). -/
theorem eq_opcode_of_reservedBitsZero {w : Word} (h : reservedBitsZero w = true) : w = (w.extractLsb' 0 4).setWidth 32 := by
  have hrsv : w.extractLsb' 4 28 = 0#28 := by simpa [reservedBitsZero] using h
  have hhigh : w.toNat / 16 % 2 ^ 28 = 0 := by
    simpa [BitVec.extractLsb'_toNat, Nat.shiftRight_eq_div_pow] using congrArg BitVec.toNat hrsv
  refine BitVec.eq_of_toNat_eq ?_
  have hw := w.isLt
  simp only [BitVec.toNat_setWidth, BitVec.extractLsb'_toNat, Nat.shiftRight_zero]
  omega

/-- Only a command's own word decodes to it (R62). -/
theorem eq_encode_of_decode {w : Word} {i : Instr} (h : decode w = .instr i) : w = encode i := by
  have hall : ∀ op : BitVec 4, ∀ i, decode (op.setWidth 32) = .instr i → op.setWidth 32 = encode i := by
    intro op i; revert op; cases i <;> decide
  cases hr : reservedBitsZero w
  · rw [decode, hr] at h; cases h
  · rw [eq_opcode_of_reservedBitsZero hr] at h ⊢; exact hall _ i h

theorem writeCmd_of_decode {w : Word} {i : Instr} (h : decode w = .instr i) (s : State) :
    writeCmd w s =
      match exec i s with
      | .next t => .next (launch i s t)
      | .fault f => .fault f
      | .refused r => .refused r := by
  unfold writeCmd
  generalize decode w = d at h
  subst h; rfl

/-- A command word written to CMD is run by the step that takes it off the queue (R90). -/
theorem step_command {s : State} {w : Word} {i : Instr} {rest : List HostOp} (hq : s.host = .write 0x04 w :: rest)
    (hd : decode w = .instr i) (hallow : s.unseen = false ∨ i = .srst) :
    step s = writeCmd w (tick { s with host := rest }) := by
  refine step_write hq rfl (by decide) (hallow.imp_right ?_)
  rintro rfl
  rw [eq_encode_of_decode hd]; rfl

theorem tick_of_idle {s : State} (h : s.flight = none) : tick s = s := by simp [tick, h]

@[simp] theorem tick_host (s : State) : (tick s).host = s.host := by
  rcases tick_cases s with ⟨-, h⟩ | ⟨f, -, -, h⟩ | ⟨f, n, ps, -, -, -, h⟩
  · rw [h]
  · rw [h, closeWindow_host]
  · rw [h]

theorem decode_of_decodeTableWord {nbits w : Nat} {i : Instr} (h : decodeTableWord nbits w = some i) :
    decode (BitVec.ofNat 32 (tableWord nbits w)) = .instr i := by
  simp only [decodeTableWord] at h
  split at h
  · split at h
    · next hd => cases h; exact hd
    · cases h
  · cases h

/-- Settles O4: each operation's step is its rule, and a command word's step runs the command. -/
theorem stepRunsTheDecodedCommand : Obligations.StepRunsTheDecodedCommand := by
  refine ⟨fun s off rest hq h4 hmax hallow => step_read hq h4 hmax (hallow.imp_right ?_),
    fun s off d rest hq h4 hmax hallow => step_write hq h4 hmax (hallow.imp_right ?_), fun _ _ => rfl,
    fun s rest hq => by simp only [step, hq], fun s rest hq => ⟨fun hirq => ?_, fun hirq => ?_⟩,
    fun s hq => by simp only [step, hq], fun s w i rest hq hd hallow => ?_, fun _ => tick_of_idle, fun i s t hi => ?_,
    fun ip hip s t hr => ?_, fun s nbits w i hf hd => ?_⟩
  · rintro (rfl | rfl) <;> rfl
  · rintro ⟨rfl, rfl⟩; rfl
  · simp only [step, hq, hostStep, hirq, if_true]
  · have hrest : (tick { s with host := rest }).host = rest := tick_host { s with host := rest }
    simp only [step, hq, hostStep, hirq, Bool.false_eq_true, if_false, hrest]
  · exact (step_command hq hd hallow).trans (writeCmd_of_decode hd _)
  · rcases hi with hi | hr
    · have hw : isWorking i = false := by
        simp only [List.mem_cons, List.not_mem_nil, or_false] at hi
        rcases hi with rfl | rfl | rfl <;> rfl
      simp [launch, hw]
    · simp [launch, hr]
  · have hi : isWorking ip.1 = true ∧ (phasesOf ip.1).headD .idle = ip.2 := by
      revert ip; decide
    obtain ⟨hw, hp⟩ := hi
    exact ⟨_, rfl, rfl, by rw [launch_of_working hw hr, openWindow, hp]⟩
  · have hword := decode_of_decodeTableWord hd
    have hstep := step_command (s := s.withFetchWord nbits w) rfl hword (.inl rfl)
    have htick : tick { s.withFetchWord nbits w with host := s.host } = { s with unseen := false } :=
      tick_of_idle (s := { s with unseen := false }) hf
    rw [htick] at hstep
    exact hstep.trans (writeCmd_of_decode hword _)

/-! ### Registers -/

/-- A write of a register other than CMD while BUSY = 0. -/
theorem hostWrite_reg {off : Nat} {r : Reg} {s : State} (hr : regAt off = some r) (hcmd : r ≠ .cmd)
    (hb : s.status.busy = false) (d : Word) : hostWrite off d s = .next (s.regWrite d r) := by
  cases r with
  | cmd => exact absurd rfl hcmd
  | _ => simp [hostWrite, hr, hb]

/-- A read of a register other than STATUS while BUSY = 0. -/
theorem hostRead_reg {off : Nat} {r : Reg} {s : State} (hr : regAt off = some r) (hst : r ≠ .status)
    (hb : s.status.busy = false) : hostRead off s = reply (s.regValue r) (s.afterRead r) := by
  cases r with
  | status => exact absurd rfl hst
  | _ => simp [hostRead, hb, idleRead, hr]

/-- The two writable bits of a 2-bit register, zero-extended. -/
theorem setWidth_two_setWidth (d : Word) : (d.setWidth 2).setWidth 32 = d &&& 3#32 := by
  refine BitVec.eq_of_toNat_eq ?_
  have hand : (d &&& 3#32).toNat = d.toNat % 2 ^ 2 := by
    rw [BitVec.toNat_and]; exact Nat.and_two_pow_sub_one_eq_mod d.toNat 2
  rw [hand, BitVec.toNat_setWidth, BitVec.toNat_setWidth]
  omega

/-- Settles O43: each register's write, and the read of what was written. -/
theorem registersReadBackWhatWasWritten : Obligations.RegistersReadBackWhatWasWritten := by
  intro s d hb
  refine ⟨hostWrite_reg (r := .intEn) rfl (by decide) hb d, hostWrite_reg (r := .srcLen) rfl (by decide) hb d,
    hostWrite_reg (r := .srcPtr) rfl (by decide) hb d, hostWrite_reg (r := .dstPtr) rfl (by decide) hb d,
    hostWrite_reg (r := .tblSel) rfl (by decide) hb d, hostWrite_reg (r := .tblIdx) rfl (by decide) hb d,
    ?intEn, hostRead_reg (r := .srcLen) rfl (by decide) hb, hostRead_reg (r := .srcPtr) rfl (by decide) hb,
    hostRead_reg (r := .dstPtr) rfl (by decide) hb, ?tblSel, hostRead_reg (r := .tblIdx) rfl (by decide) hb⟩
  case intEn => rw [← setWidth_two_setWidth]; exact hostRead_reg (r := .intEn) rfl (by decide) hb
  case tblSel => rw [← setWidth_two_setWidth]; exact hostRead_reg (r := .tblSel) rfl (by decide) hb

/-- The offsets from 0x44 on are reserved (R29). -/
theorem regAt_reserved {off : Nat} (h : 0x44 ≤ off) : regAt off = none := by
  unfold regAt
  split <;> simp at h ⊢

/-- K is the number of symbols with a nonzero frequency (R21). -/
theorem kView_eq_countP (s : State) : s.kView = symbols.countP fun b => atSym s.freq b != 0 := by
  rw [State.kView, presentSymbols_eq_filter, List.countP_eq_length_filter]

/-- Settles O44: a read-only register's write and a reserved offset's have no case in the register map. -/
theorem readOnlyRegistersIgnoreWrites : Obligations.ReadOnlyRegistersIgnoreWrites := by
  refine ⟨fun s off d h => ?writes, fun s hb => ⟨fun off h => ?reserved, hostRead_reg (r := .id) rfl (by decide) hb,
    hostRead_reg (r := .cmd) rfl (by decide) hb, ?status, hostRead_reg (r := .errInfo) rfl (by decide) hb,
    hostRead_reg (r := .dstLen) rfl (by decide) hb, ?k, hostRead_reg (r := .bitLen) rfl (by decide) hb,
    hostRead_reg (r := .nodeCnt) rfl (by decide) hb⟩⟩
  case writes =>
    rcases h with h | h
    · simp only [List.mem_cons, List.not_mem_nil, or_false] at h
      rcases h with rfl | rfl | rfl | rfl | rfl | rfl | rfl | rfl | rfl <;> simp [hostWrite, regAt, State.regWrite]
    · simp [hostWrite, regAt_reserved h]
  case reserved => simp [hostRead, hb, idleRead, regAt_reserved h, reply]
  case status => simp [hostRead, hb, idleRead, regAt, reply, seeIdle]
  case k => rw [hostRead_reg (r := .k) rfl (by decide) hb, ← kView_eq_countP]; rfl

/-! ### Data ports -/

theorem srcByte_store (s : State) (a : Nat) (v : Byte) (p : Word) (x : Nat) :
    { s with src := Memory.store s.src a v, srcPtr := p }.srcByte x = if x = a then v else s.srcByte x := by
  split
  · next h => subst h; simp [State.srcByte, Memory.lookup_store_same]
  · next h => simp [State.srcByte, Memory.lookup_store_ne _ _ h]

/-- Settles O45: each port below and from BUF_BYTES on. -/
theorem dataPortsAdvanceTheirPointers : Obligations.DataPortsAdvanceTheirPointers := by
  intro s d hb
  refine ⟨fun hlt => ⟨⟨_, hostWrite_reg (r := .srcData) rfl (by decide) hb d, ?srcWrite⟩, ?srcRead⟩,
    fun hge => ⟨?srcWritePast, ?srcReadPast⟩, fun hlt hvalid => ?dstValid,
    fun hlt hstale => ⟨Config.staleByte s.cmdEra s.dstPtr.toNat, ?dstStale⟩, fun hge => ?dstPast⟩
  case srcWrite =>
    simp only [State.regWrite, if_pos hlt]
    exact ⟨by rw [srcByte_store, if_pos rfl], by trivial, fun a ha => by rw [srcByte_store, if_neg ha], by trivial⟩
  case srcRead =>
    rw [hostRead_reg (r := .srcData) rfl (by decide) hb]
    simp only [State.regValue, State.afterRead, if_pos hlt, reply]
  case srcWritePast =>
    rw [hostWrite_reg (r := .srcData) rfl (by decide) hb]
    simp only [State.regWrite, if_neg (Nat.not_lt.2 hge)]
  case srcReadPast =>
    rw [hostRead_reg (r := .srcData) rfl (by decide) hb]
    simp only [State.regValue, State.afterRead, if_neg (Nat.not_lt.2 hge), reply]
  case dstValid =>
    rw [hostRead_reg (r := .dstData) rfl (by decide) hb]
    simp only [State.regValue, State.afterRead, if_pos hlt, State.dstRead, if_pos hvalid, reply]
  case dstStale =>
    rw [hostRead_reg (r := .dstData) rfl (by decide) hb]
    simp only [State.regValue, State.afterRead, if_pos hlt, State.dstRead, if_neg (Nat.not_lt.2 hstale), reply]
  case dstPast =>
    rw [hostRead_reg (r := .dstData) rfl (by decide) hb]
    simp only [State.regValue, State.afterRead, if_neg (Nat.not_lt.2 hge), reply]

/-! ### The table port -/

theorem tableRead_freq {s : State} (h : s.tblSel = 0) :
    s.tableRead = if h : s.tblIdx.toNat < 256 then s.freq[s.tblIdx.toNat] else 0 := by
  simp [State.tableRead, h]

theorem tableRead_node {s : State} (h : s.tblSel = 1) :
    s.tableRead =
      if s.tblIdx.toNat < 1022 then
        if s.tblIdx.toNat / 2 < s.nodeCnt.toNat then
          if s.tblIdx.toNat % 2 = 0 then (s.nodeAt (s.tblIdx.toNat / 2)).freq
          else (s.nodeAt (s.tblIdx.toNat / 2)).word1
        else s.staleWord
      else 0 := by
  simp [State.tableRead, h]

theorem tableRead_code {s : State} (h : s.tblSel = 2) {b : Byte} {w : Nat} (hw : w < 16)
    (hi : s.tblIdx.toNat = 16 * b.toNat + w) :
    s.tableRead = ((atSym s.code b).map fun c => c.wordAt w).getD (s.invalidCodeWord w) := by
  have hb : BitVec.ofNat 8 ((16 * b.toNat + w) / 16) = b := by
    refine BitVec.eq_of_toNat_eq ?_
    have := b.isLt
    simp only [BitVec.toNat_ofNat]; omega
  have hmod : (16 * b.toNat + w) % 16 = w := by omega
  have hlt : 16 * b.toNat + w < 4096 := by have := b.isLt; omega
  simp only [State.tableRead, h, hi, hb, hmod, if_pos hlt]
  cases atSym s.code b <;> rfl

theorem tableRead_pay {s : State} (h : s.tblSel = 3) :
    s.tableRead =
      if s.tblIdx.toNat < s.bufBytes then
        if s.tblIdx.toNat < ceil8 s.bitLen.toNat then (s.payByte s.tblIdx.toNat).setWidth 32 else s.staleWord
      else 0 := by
  simp [State.tableRead, h]

section
open BitVec (extractLsb'_append_eq_of_le extractLsb'_append_eq_right getLsbD_append)

/-- The fields of a node's second word (R28). -/
theorem word1_fields (n : Node) :
    n.word1.getLsbD 31 = n.isInternal ∧ n.word1.extractLsb' 26 5 = 0 ∧ n.word1.extractLsb' 18 8 = n.sym ∧
      n.word1.extractLsb' 9 9 = n.low ∧ n.word1.extractLsb' 0 9 = n.high := by
  refine ⟨?kind, ?zero, ?sym, (extractLsb'_append_eq_of_le (by decide)).trans extractLsb'_append_eq_right,
    extractLsb'_append_eq_right⟩
  case kind =>
    iterate 4 refine getLsbD_append.trans ?_
    simp
  case zero =>
    iterate 3 refine (extractLsb'_append_eq_of_le (by decide)).trans ?_
    exact extractLsb'_append_eq_right
  case sym =>
    iterate 2 refine (extractLsb'_append_eq_of_le (by decide)).trans ?_
    exact extractLsb'_append_eq_right

/-- The fields of a code's first word (R28). -/
theorem wordAt_zero_fields (c : Code) :
    (c.wordAt 0).getLsbD 31 = true ∧ (c.wordAt 0).extractLsb' 8 23 = 0 ∧ (c.wordAt 0).extractLsb' 0 8 = c.len :=
  ⟨getLsbD_append.trans getLsbD_append, (extractLsb'_append_eq_of_le (by decide)).trans extractLsb'_append_eq_right,
    extractLsb'_append_eq_right⟩

/-- The valid bit of an entry without a code reads 0 (R28). -/
theorem invalidCodeWord_valid (s : State) : (s.invalidCodeWord 0).getLsbD 31 = false :=
  getLsbD_append.trans rfl

end

/-- The words of a code's value, least significant first (R28). -/
theorem toNat_wordAt (c : Code) {w : Nat} (h1 : 1 ≤ w) (h8 : w ≤ 8) :
    (c.wordAt w).toNat = c.val.toNat / 2 ^ (32 * (w - 1)) % 2 ^ 32 := by
  have hval : c.val.toNat % 2 ^ 256 = c.val.toNat := Nat.mod_eq_of_lt (c.val.isLt.trans (by decide))
  rw [Code.wordAt, if_neg (by omega), if_pos h8, BitVec.extractLsb'_toNat, BitVec.toNat_setWidth, hval,
    Nat.shiftRight_eq_div_pow]

theorem wordAt_high (c : Code) {w : Nat} (h : 9 ≤ w) : c.wordAt w = 0 := by
  rw [Code.wordAt, if_neg (by omega), if_neg (by omega)]

theorem invalidCodeWord_high (s : State) {w : Nat} (h : 9 ≤ w) : s.invalidCodeWord w = 0 := by
  rw [State.invalidCodeWord, if_neg (by omega), if_neg (by omega)]

/-- Settles O46: each table's port, at a valid entry and outside the table. -/
theorem tablePortReadsTheTables : Obligations.TablePortReadsTheTables := by
  intro s i hi
  refine ⟨hostRead_reg (r := .tblData) rfl (by decide), fun hsel b hb => ?freq, fun hsel hout => ?freqPast,
    fun hsel m n hm hn => ⟨fun him => ?nodeFreq, fun him => ?nodeWord⟩, fun hsel hout => ?nodePast,
    fun hsel b w hw hiw => ⟨fun c hc => ⟨fun h0 => ?codeLen, fun h1 h8 => ?codeVal, fun h9 => ?codeHigh⟩,
      fun hc => ⟨fun h0 => ?noCode, fun h9 => ?noCodeHigh⟩⟩,
    fun hsel hout => ?codePast, fun hsel hfit hvalid => ?pay, fun hsel hout => ?payPast⟩
  case freq =>
    have hlt : s.tblIdx.toNat < 256 := by rw [hi, ← hb]; exact b.isLt
    rw [tableRead_freq hsel, dif_pos hlt]
    simp only [atSym, hb, hi]
  case freqPast => rw [tableRead_freq hsel, dif_neg (by omega)]
  case nodeFreq =>
    have hcnt := s.nodeCnt.isLt
    have hdiv : s.tblIdx.toNat / 2 = m := by omega
    rw [tableRead_node hsel, if_pos (by omega), hdiv, if_pos hm, if_pos (by omega), State.nodeAt, hn]; rfl
  case nodeWord =>
    have hcnt := s.nodeCnt.isLt
    have hdiv : s.tblIdx.toNat / 2 = m := by omega
    rw [tableRead_node hsel, if_pos (by omega), hdiv, if_pos hm, if_neg (by omega), State.nodeAt, hn]
    exact word1_fields n
  case nodePast => rw [tableRead_node hsel, if_neg (by omega)]
  case codeLen => rw [tableRead_code hsel hw (hi.trans hiw), hc, h0]; exact wordAt_zero_fields c
  case codeVal => rw [tableRead_code hsel hw (hi.trans hiw), hc]; exact toNat_wordAt c h1 h8
  case codeHigh => rw [tableRead_code hsel hw (hi.trans hiw), hc]; exact wordAt_high c h9
  case noCode => rw [tableRead_code hsel hw (hi.trans hiw), hc, h0]; exact invalidCodeWord_valid s
  case noCodeHigh => rw [tableRead_code hsel hw (hi.trans hiw), hc]; exact invalidCodeWord_high s h9
  case codePast =>
    have hge : ¬ s.tblIdx.toNat < 4096 := by omega
    simp [State.tableRead, hsel, hge]
  case pay => rw [tableRead_pay hsel, hi, if_pos hfit, if_pos hvalid]
  case payPast => rw [tableRead_pay hsel, if_neg (by omega)]

end Sys2Proof.Machine
end

section
/-! PROOFS. What the loops of the packer and the unpacker do to PAY and DST, and the canonical form of the byte memories
(R40, R45): no unit stores past BUF_BYTES. Settles O53. -/

namespace Sys2Proof.Machine

/-! ### The packer -/

section Pack
variable {P : Packer → Prop} {cap : Nat}
  (hregs : ∀ p acc n bits, P p → P { p with acc := acc, accCnt := n, bitLen := bits })
  (hstore : ∀ p v, P p → p.pkP < cap → P { p with pkP := p.pkP + 1, pay := Memory.store p.pay p.pkP v })
include hregs hstore

/-- A property that the packer's registers do not matter to, and that storing the next byte keeps, is kept by one micro-step,
with or without an error. -/
theorem appendBit_keeps (off : Nat) (p : Packer) (b : Bool) (hp : P p) : P (appendBit cap off p b).state := by
  simp only [appendBit]
  split
  · split
    · exact hregs p _ _ _ hp
    · exact hregs _ _ _ _ (hstore p _ hp (by omega))
  · exact hregs p _ _ _ hp

theorem appendBits_keeps (off : Nat) (bs : List Bool) (p : Packer) (hp : P p) : P (appendBits cap off bs p).state := by
  induction bs generalizing p with
  | nil => exact hp
  | cons b bs ih =>
    have hbit := appendBit_keeps hregs hstore off p b hp
    simp only [appendBits]
    split
    · next he => rw [he] at hbit; exact ih _ hbit
    · next he => rw [he] at hbit; exact hbit

/-- What micro-steps keep, PACK's loop keeps, with or without an error. -/
theorem packLoop_keeps (code : Vector (Option Code) 256) (i : Nat) (bs : List Byte) (p : Packer) (hp : P p) :
    P (packLoop cap code i bs p).state := by
  induction bs generalizing i p with
  | nil =>
    simp only [packLoop, flushLast]
    split
    · split
      · exact hp
      · exact hstore p _ hp (by omega)
    · exact hp
  | cons b bs ih =>
    simp only [packLoop]
    split
    · exact hp
    · next c _ =>
      have hcode := appendBits_keeps hregs hstore i c.bits p hp
      split
      · next he => rw [he] at hcode; exact ih _ _ hcode
      · next he => rw [he] at hcode; exact hcode

end Pack

/-! ### Canonical memories -/

@[simp] theorem length_srcSlice (s : State) (a n : Nat) : (s.srcSlice a n).length = n := by simp [State.srcSlice]

/-- PACK's loop stores below BUF_BYTES. -/
theorem packRun_ok {s : State} (h : s.pay.ok s.bufBytes = true) : (packRun s).state.pay.ok s.bufBytes = true :=
  packLoop_keeps (P := fun p => p.pay.ok s.bufBytes = true) (fun _ _ _ _ h => h) (fun _ v hp hlt => Memory.ok_store v hp hlt)
    _ _ _ _ h

/-- UNPACK's loop stores below N_MAX. -/
theorem unpackRun_ok {s : State} (h : s.dst.ok s.bufBytes = true) : (unpackRun s).state.dst.ok s.bufBytes = true :=
  unpackLoop_keeps (P := fun u => u.dst.ok s.bufBytes = true) (fun _ _ h => h)
    (fun _ b hu hlt => Memory.ok_store b hu (hlt.trans_le (nMax_le_bufBytes s))) _ _ _ h

theorem memoriesOk_iff {s : State} : s.memoriesOk = true ↔
    s.src.ok s.bufBytes = true ∧ s.dst.ok s.bufBytes = true ∧ s.pay.ok s.bufBytes = true := by
  simp [State.memoriesOk, and_assoc]

theorem memoriesOk_unitOf (p : Phase) {s : State} (hs : s.memoriesOk = true) :
    (unitOf p s).Holds fun t => t.memoriesOk = true := by
  obtain ⟨hsrc, hdst, hpay⟩ := memoriesOk_iff.1 hs
  cases p with
  | idle | count | build | walk => exact (unitOf_writes _ s).imp fun t (h : t = _) => by rw [h]; exact hs
  | pack =>
    have hrun := packRun_ok hpay
    simp only [unitOf, packUnit]; split
    · exact hs
    · split
      all_goals next he => rw [he] at hrun; exact memoriesOk_iff.2 ⟨hsrc, hdst, hrun⟩
  | frame =>
    simp only [unitOf, frameUnit]; split
    · exact hs
    · next hfit =>
      have hlen : 0 + s.frameBytes.length ≤ s.bufBytes := by rw [length_frameBytes]; omega
      exact memoriesOk_iff.2 ⟨hsrc, Memory.ok_storeList hdst hlen, hpay⟩
  | parse =>
    simp only [unitOf, parseUnit]; split
    · exact hs
    · next c hc =>
      obtain ⟨hfit, -, hlen⟩ := parseChecks_ok hc
      have hslice : 0 + (s.srcSlice c.hdr (ceil8 c.bits)).length ≤ s.bufBytes := by
        rw [length_srcSlice]; omega
      exact memoriesOk_iff.2 ⟨hsrc, hdst, Memory.ok_storeList hpay hslice⟩
  | unpack =>
    have hrun := unpackRun_ok hdst
    simp only [unitOf, unpackUnit]; split
    · exact hs
    · split
      · exact hs
      · split
        all_goals next he => rw [he] at hrun; exact memoriesOk_iff.2 ⟨hsrc, hrun, hpay⟩

theorem memoriesOk_tick (s : State) : (tick s).memoriesOk = s.memoriesOk := by
  rcases tick_cases s with ⟨-, h⟩ | ⟨f, -, -, h⟩ | ⟨f, n, ps, -, -, -, h⟩ <;> rw [h] <;> rfl

theorem memoriesOk_afterRead (r : Reg) (s : State) : (s.afterRead r).memoriesOk = s.memoriesOk := by
  cases r with
  | srcData | dstData => simp only [State.afterRead]; split <;> rfl
  | _ => rfl

theorem memoriesOk_hostRead (off : Nat) (s : State) : (hostRead off s).memoriesOk = s.memoriesOk := by
  unfold hostRead
  split
  · unfold busyRead; split <;> rfl
  · unfold idleRead; split
    · rfl
    · exact memoriesOk_afterRead _ s
    · rfl

/-- The data port stores below BUF_BYTES alone (R26, R45). -/
theorem memoriesOk_regWrite (d : Word) (r : Reg) {s : State} (hs : s.memoriesOk = true) :
    (s.regWrite d r).memoriesOk = true := by
  cases r with
  | srcData =>
    obtain ⟨hsrc, hdst, hpay⟩ := memoriesOk_iff.1 hs
    simp only [State.regWrite]; split
    · next hlt => exact memoriesOk_iff.2 ⟨Memory.ok_store _ hsrc hlt, hdst, hpay⟩
    · exact hs
  | _ => exact hs

theorem memoriesOk_writeCmd {w : Word} {s t : State} (hs : s.memoriesOk = true) (h : writeCmd w s = .next t) :
    t.memoriesOk = true := by
  rcases writeCmd_next_cases h with rfl | ⟨-, -, rfl⟩ | ⟨-, rfl⟩ | ⟨-, rfl⟩ | ⟨i, u, -, -, -, hrun, rfl⟩
  · exact hs
  · exact hs
  · rfl
  · exact hs
  · have hu : u.memoriesOk = true :=
      runUnits_unitsOf_keeps (P := fun s => s.memoriesOk = true) (fun _ _ h => h) (fun _ h => h) (fun _ _ _ _ h => h)
        (fun _ h => h) (fun p _ => memoriesOk_unitOf p) (s := accepted i s) hs hrun
    exact hu

/-- Settles O53: time, reads, register writes, command words and reset each keep the memories canonical. -/
theorem stepKeepsTheMemories : Obligations.StepKeepsTheMemories := fun _ _ =>
  step_keeps (P := fun s => s.memoriesOk = true) (fun _ _ hs => hs) (fun s hs => (memoriesOk_tick s).trans hs)
    (fun off s hs => (memoriesOk_hostRead off s).trans hs) (fun d r _ => memoriesOk_regWrite d r)
    (fun _ _ _ => memoriesOk_writeCmd) (fun _ _ => rfl)

end Sys2Proof.Machine
end

section
/-! PROOFS. The frames of the commands of one phase (R46): what the units of a command may write is all that it changes, but for
what the sequencer writes around them; and which bytes of PAY and DST each unit leaves alone. Settles O11, O25 and O35. -/

namespace Sys2Proof.Machine

/-! ### The sequencer around the units -/

/-- `s`, with what the sequencer writes around the units (R92, R93, R205, U6) as in `t`. -/
def State.withSequencerOf (s t : State) : State := { s with status := t.status, errInfo := t.errInfo, hidden := t.hidden }

/-- The same, with the command's number as in `t` too. -/
def State.withCommandOf (s t : State) : State := { s.withSequencerOf t with cmdEra := t.cmdEra }

theorem eq_of_withCommandOf {s t u : State} (h : t.withCommandOf s = u) : t = u.withCommandOf t := by
  rw [← h]; rfl

theorem UnitResult.Holds.of_raised {P : State → Prop} {r : UnitResult} {e : ErrCode} {w : Word} {t : State} (h : r.Holds P)
    (hr : r = .raised e w t) : P t := by
  rw [hr] at h; exact h

/-- What a list of units leaves is what the first one raises, or what the others leave after it. -/
theorem runUnits_cons_next {p : Phase} {u : State → UnitResult} {rest : List (Phase × (State → UnitResult))} {s t : State}
    (h : runUnits ((p, u) :: rest) s = .next t) :
    (∃ v, u (enterPhase p s) = .done v ∧ runUnits rest v = .next t) ∨
      ∃ e w v, u (enterPhase p s) = .raised e w v ∧ t = releaseHidden (raise e w p v) := by
  cases hu : u (enterPhase p s) with
  | done v => rw [runUnits_done hu] at h; exact .inl ⟨v, rfl, h⟩
  | raised e w v => rw [runUnits_raised hu] at h; cases h; exact .inr ⟨e, w, v, rfl, rfl⟩
  | stuck f => simp only [runUnits, hu] at h; cases h

section Keep
variable {P : State → Prop} (hseq : ∀ s t, P s → P (s.withSequencerOf t))
include hseq

/-- What holds of the state one unit ends in holds of what it leaves. -/
theorem runUnits_single_holds {p : Phase} {s t : State} (hunit : (unitOf p (enterPhase p s)).Holds P)
    (h : runUnits [(p, unitOf p)] s = .next t) : P t := by
  rcases runUnits_cons_next h with ⟨u, hu, hend⟩ | ⟨e, w, u, hu, rfl⟩
  · cases hend; exact hseq u (releaseHidden (complete u)) (hunit.of_done hu)
  · exact hseq u (releaseHidden (raise e w p u)) (hunit.of_raised hu)

/-- What the units before the last one keep holds of what they leave, or of the state that the last one starts from. -/
theorem runUnits_concat_next {ps : List Phase} {p : Phase} {s t : State}
    (hunit : ∀ q ∈ ps, ∀ u, P u → (unitOf q u).Holds P) (hs : P s)
    (h : runUnits ((ps ++ [p]).map fun q => (q, unitOf q)) s = .next t) :
    P t ∨ ∃ u, P u ∧ runUnits [(p, unitOf p)] u = .next t := by
  induction ps generalizing s with
  | nil => exact .inr ⟨s, hs, h⟩
  | cons q qs ih =>
    have hq := hunit q List.mem_cons_self _ (hseq s (enterPhase q s) hs)
    rcases runUnits_cons_next h with ⟨u, hu, hrest⟩ | ⟨e, w, u, hu, rfl⟩
    · exact ih (fun r hr => hunit r (List.mem_cons_of_mem _ hr)) (hq.of_done hu) hrest
    · exact .inl (hseq u (releaseHidden (raise e w q u)) (hq.of_raised hu))

end Keep

/-! ### The bytes a unit leaves alone -/

namespace Writes
variable {s t : State} {p : Phase}

theorem resetEra (h : Writes s t p) : t.resetEra = s.resetEra := by
  cases p <;> exact (congrArg State.resetEra h).trans rfl

theorem srcByte (h : Writes s t p) (a : Nat) : t.srcByte a = s.srcByte a := by
  cases p <;> exact (congrArg (State.srcByte · a) h).trans rfl

/-- FRAME and UNPACK alone store to DST. -/
theorem dst (h : Writes s t p) (hp : p ≠ .frame ∧ p ≠ .unpack) : t.dst = s.dst := by
  cases p with
  | frame => exact absurd rfl hp.1
  | unpack => exact absurd rfl hp.2
  | _ => exact (congrArg State.dst h).trans rfl

/-- PACK and PARSE alone store to PAY and write BITLEN. -/
theorem payload (h : Writes s t p) (hp : p ≠ .pack ∧ p ≠ .parse) : t.pay = s.pay ∧ t.bitLen = s.bitLen := by
  cases p with
  | pack => exact absurd rfl hp.1
  | parse => exact absurd rfl hp.2
  | _ => exact ⟨(congrArg State.pay h).trans rfl, (congrArg State.bitLen h).trans rfl⟩

theorem dstByte (h : Writes s t p) (hp : p ≠ .frame ∧ p ≠ .unpack) (a : Nat) : t.dstByte a = s.dstByte a := by
  rw [State.dstByte, h.dst hp, h.resetEra]; rfl

theorem payByte (h : Writes s t p) (hp : p ≠ .pack ∧ p ≠ .parse) (a : Nat) : t.payByte a = s.payByte a := by
  rw [State.payByte, (h.payload hp).1, h.resetEra]; rfl

end Writes

/-! ### Commands of one phase -/

/-- A working command is ignored, or runs its units from the accepted state. -/
theorem exec_working_cases {i : Instr} {s t : State} (hi : isWorking i = true) (h : exec i s = .next t) :
    t = s ∨ (s.ready = true ∧ runUnits (unitsOf i) (accepted i s) = .next t) := by
  rcases exec_next_cases h with rfl | ⟨rfl, -, -⟩ | ⟨rfl, -⟩ | ⟨-, hr, hrun⟩
  · exact .inl rfl
  · cases hi
  · cases hi
  · exact .inr ⟨hr, hrun⟩

theorem isWorking_of_phasesOf {i : Instr} {p : Phase} {ps : List Phase} (hi : phasesOf i = p :: ps) : isWorking i = true := by
  cases i with
  | nop | clrst | srst => cases hi
  | _ => rfl

theorem unitsOf_of_phasesOf {i : Instr} {p : Phase} (hi : phasesOf i = [p]) : unitsOf i = [(p, unitOf p)] := by
  rw [unitsOf, hi]; rfl

/-- What holds of the state a command of one phase is given, and of the state its unit ends in, holds of what it leaves. -/
theorem exec_single_holds {P : State → Prop} (hseq : ∀ s t, P s → P (s.withSequencerOf t)) {i : Instr} {p : Phase}
    {s t : State} (hi : phasesOf i = [p]) (h : exec i s = .next t) (hs : P s)
    (hunit : (unitOf p (enterPhase p (accepted i s))).Holds P) : P t := by
  rcases exec_working_cases (isWorking_of_phasesOf hi) h with rfl | ⟨-, hrun⟩
  · exact hs
  · rw [unitsOf_of_phasesOf hi] at hrun; exact runUnits_single_holds hseq hunit hrun

/-- The frame of a command of one phase: what its unit may write, and what the sequencer writes. -/
theorem exec_single_writes {i : Instr} {p : Phase} {s t : State} (hi : phasesOf i = [p]) (h : exec i s = .next t) :
    Writes s (t.withCommandOf s) p := by
  refine exec_single_holds (P := fun t => Writes s (t.withCommandOf s) p) (fun _ _ h => h) hi h (by cases p <;> rfl)
    ((unitOf_writes p _).imp fun u hu => ?_)
  cases i with
  | nop | clrst | srst | compress | decompress => cases hi
  | _ => cases hi; exact (congrArg (fun u => u.withCommandOf s) hu).trans rfl

/-- A command whose only phase raises nothing leaves ERR, EPHASE and ERR_INFO alone (R93). -/
theorem exec_single_keeps_error {i : Instr} {p : Phase} {s t : State} (hi : phasesOf i = [p]) (hp : ∀ e, ¬ raisesIn p e)
    (h : exec i s = .next t) :
    t.status.err = s.status.err ∧ t.status.ephase = s.status.ephase ∧ t.errInfo = s.errInfo := by
  rcases exec_working_cases (isWorking_of_phasesOf hi) h with rfl | ⟨hr, hrun⟩
  · exact ⟨rfl, rfl, rfl⟩
  · rcases runUnits_accepted_ends hr hrun with ⟨hst, hinfo⟩ | ⟨q, hq, e, he, -⟩
    · rw [hst]; exact ⟨rfl, rfl, hinfo⟩
    · rw [hi, List.mem_singleton] at hq; exact absurd (hq ▸ he) (hp e)

/-! ### COUNT, BUILD and WALK -/

/-- BUILD and WALK cannot fail (R120, R141). -/
theorem not_raisesIn {p : Phase} (hp : p = .build ∨ p = .walk) (e : ErrCode) : ¬ raisesIn p e := by
  rintro ⟨-, -, hphase⟩
  have hno : errPhaseOk e p = false := by rcases hp with rfl | rfl <;> cases e <;> rfl
  rw [hno] at hphase; cases hphase

/-- Settles O11: the frame of each of the three units, and BUILD and WALK raise nothing. -/
theorem tableCommandsFrame : Obligations.TableCommandsFrame := by
  refine ⟨fun s t h => (eq_of_withCommandOf (exec_single_writes (p := .count) rfl h)).trans rfl, fun s t h => ?build,
    fun s t h => ?walk, fun i s t hi h a => ?bytes⟩
  case build =>
    obtain ⟨herr, hephase, hinfo⟩ := exec_single_keeps_error rfl (not_raisesIn (.inl rfl)) h
    have hframe := eq_of_withCommandOf (exec_single_writes (p := .build) rfl h)
    rw [State.withCommandOf, State.withSequencerOf, hinfo] at hframe
    exact ⟨hframe, herr, hephase⟩
  case walk =>
    obtain ⟨herr, hephase, hinfo⟩ := exec_single_keeps_error rfl (not_raisesIn (.inr rfl)) h
    have hframe := eq_of_withCommandOf (exec_single_writes (p := .walk) rfl h)
    rw [State.withCommandOf, State.withSequencerOf, hinfo] at hframe
    exact ⟨hframe, herr, hephase⟩
  case bytes =>
    obtain ⟨p, hp, hdst, hpay⟩ : ∃ p, phasesOf i = [p] ∧ (p ≠ .frame ∧ p ≠ .unpack) ∧ p ≠ .pack ∧ p ≠ .parse := by
      rcases hi with rfl | rfl | rfl <;> exact ⟨_, rfl, by decide, by decide⟩
    have hw := exec_single_writes hp h
    exact ⟨hw.srcByte a, hw.dstByte hdst a, hw.payByte hpay a⟩

/-! ### PACK and PARSE -/

/-- What is unchanged in PAY after PACK's loop: every byte from PK_P on. -/
theorem packRun_frame (s : State) {a : Nat} (ha : (packRun s).state.pkP ≤ a) :
    (packRun s).state.pay.lookup a = s.pay.lookup a := by
  refine packLoop_keeps (P := fun p => ∀ a, p.pkP ≤ a → p.pay.lookup a = s.pay.lookup a) (fun _ _ _ _ h => h)
    (fun p v hp _ a ha => ?_) _ _ _ _ (fun _ _ => rfl) a ha
  dsimp only at ha ⊢
  rw [Memory.lookup_store_ne _ _ (by omega), hp a (by omega)]

theorem packUnit_frame (s : State) : (packUnit s).Holds fun t => ∀ a, packStored s ≤ a → t.payByte a = s.payByte a := by
  have hstored : ¬ s.srcLen.toNat > s.cfg.nMax → packStored s = (packRun s).state.pkP := fun h => if_neg h
  have hbyte : ∀ p : Packer, (∀ a, p.pkP ≤ a → p.pay.lookup a = s.pay.lookup a) → ∀ a, p.pkP ≤ a →
      (p.pay.lookup a).getD (Config.powerOnByte s.resetEra .pay a) = s.payByte a := fun p hp a ha => by
    rw [hp a ha]; rfl
  simp only [packUnit]
  split
  · exact fun _ _ => rfl
  · next hlen =>
    have hrun := fun a => packRun_frame s (a := a)
    rw [hstored hlen]
    split
    all_goals next he => rw [he] at hrun ⊢; exact hbyte _ hrun

/-- The bits the packer has taken in: those stored and those collected. -/
def Packer.taken (p : Packer) : Nat := 8 * p.pkP + p.accCnt

/-- How many bits the code of a byte has; none where it has no code. -/
def codeLen (code : Vector (Option Code) 256) (b : Byte) : Nat := (((atSym code b).map Code.bits).getD []).length

theorem codeLen_of_some {code : Vector (Option Code) 256} {b : Byte} {c : Code} (h : atSym code b = some c) :
    codeLen code b = c.bits.length := by
  rw [codeLen, h]; rfl

/-- How many bits the codes of some bytes take. -/
def codedBits (code : Vector (Option Code) 256) (bs : List Byte) : Nat := (bs.map (codeLen code)).sum

theorem codedBits_cons (code : Vector (Option Code) 256) (b : Byte) (bs : List Byte) :
    codedBits code (b :: bs) = codeLen code b + codedBits code bs := by
  simp [codedBits]

theorem bitsBefore_srcLen (s : State) : s.bitsBefore s.srcLen.toNat = codedBits s.code s.srcBytes := rfl

/-- One micro-step takes one bit in, with or without an error. -/
theorem taken_appendBit (cap off : Nat) (p : Packer) (b : Bool) : (appendBit cap off p b).state.taken = p.taken + 1 := by
  simp only [appendBit]
  split
  · split <;> simp only [LoopEnd.state, Packer.taken] <;> omega
  · simp only [LoopEnd.state, Packer.taken]; omega

/-- Appending a code takes all its bits in, or, with an error, some of them. -/
theorem taken_appendBits (cap off : Nat) (bs : List Bool) (p : Packer) :
    (appendBits cap off bs p).state.taken ≤ p.taken + bs.length := by
  induction bs generalizing p with
  | nil => exact Nat.le_refl _
  | cons b bs ih =>
    have hbit := taken_appendBit cap off p b
    simp only [appendBits, List.length_cons]
    split
    · next q he =>
      rw [he] at hbit
      have hrest := ih q
      simp only [LoopEnd.state] at hbit
      omega
    · next he => rw [he] at hbit; simp only [LoopEnd.state] at hbit ⊢; omega

/-- PACK's loop stores no more bytes than the codes fill (R155, R156). -/
theorem packLoop_pkP_le (cap : Nat) (code : Vector (Option Code) 256) (i : Nat) (bs : List Byte) (p : Packer) :
    (packLoop cap code i bs p).state.pkP ≤ ceil8 (p.taken + codedBits code bs) := by
  have hstored : ∀ (q : Packer) n, q.taken ≤ n → q.pkP ≤ ceil8 n := fun q n h => by
    simp only [Packer.taken, ceil8] at h ⊢; omega
  induction bs generalizing i p with
  | nil =>
    have hp := hstored p _ (Nat.le_refl _)
    simp only [packLoop, flushLast]
    split
    · split
      · exact hp
      · simp only [LoopEnd.state, Packer.taken, codedBits, List.map_nil, List.sum_nil, ceil8]; omega
    · exact hp
  | cons b bs ih =>
    simp only [packLoop, codedBits_cons]
    split
    · exact hstored p _ (Nat.le_add_right _ _)
    · next c hc =>
      have hcode := taken_appendBits cap i c.bits p
      rw [codeLen_of_some hc]
      split
      · next q he =>
        rw [he] at hcode
        exact (ih (i + 1) q).trans (Nat.div_le_div_right (by simp only [LoopEnd.state] at hcode; omega))
      · next he => rw [he] at hcode; exact hstored _ _ (by simp only [LoopEnd.state] at hcode ⊢; omega)

theorem packStored_le (s : State) : packStored s ≤ min s.bufBytes (ceil8 (s.bitsBefore s.srcLen.toNat)) := by
  simp only [packStored]
  split
  · exact Nat.zero_le _
  · refine le_min (packLoop_keeps (P := fun p => p.pkP ≤ s.bufBytes) (fun _ _ _ _ h => h) (fun _ _ _ h => h) _ _ _ _
      (Nat.zero_le _)) ?_
    have hle := packLoop_pkP_le s.bufBytes s.code 0 s.srcBytes (Packer.start s.pay)
    have hstart : (Packer.start s.pay).taken = 0 := rfl
    rwa [hstart, Nat.zero_add, ← bitsBefore_srcLen] at hle

theorem bufBytes_le (s : State) : s.bufBytes ≤ 2 ^ 24 + 1286 := Nat.add_le_add_right s.cfg.nMax_le _

/-- Storing a run of bytes from index 0 leaves those after it alone. -/
theorem lookup_storeList_of_le {m : Memory} {vs : List Byte} {a : Nat} (h : vs.length ≤ a) :
    (m.storeList 0 vs).lookup a = m.lookup a := by
  rw [Memory.lookup_storeList, if_neg (by omega)]

theorem parseUnit_frame (s : State) :
    (parseUnit s).Holds fun t => ∀ a, ceil8 t.bitLen.toNat ≤ a → t.payByte a = s.payByte a := by
  simp only [parseUnit]
  split
  · exact fun _ _ => rfl
  · next c hc =>
    obtain ⟨hfit, -, hlen⟩ := parseChecks_ok hc
    have hmax := bufBytes_le s
    have hbits : (BitVec.ofNat 32 c.bits).toNat = c.bits := Nat.mod_eq_of_lt (by simp only [ceil8] at hlen; omega)
    intro a ha
    have hlookup : (Memory.storeList s.pay 0 (s.srcSlice c.hdr (ceil8 c.bits))).lookup a = s.pay.lookup a :=
      lookup_storeList_of_le (by rw [length_srcSlice]; rwa [hbits] at ha)
    exact congrArg (·.getD (Config.powerOnByte s.resetEra .pay a)) hlookup

/-- Settles O25: the two frames, and the bytes each unit leaves alone. -/
theorem payloadCommandsFrame : Obligations.PayloadCommandsFrame := by
  refine ⟨fun s t h => ?pack, fun s t h => ⟨?parseFrame, ?parse⟩, fun i s t hi h a => ?bytes⟩
  case pack =>
    have hbytes : ∀ a, packStored s ≤ a → t.payByte a = s.payByte a :=
      exec_single_holds (P := fun t => ∀ a, packStored s ≤ a → t.payByte a = s.payByte a) (fun _ _ h => h) (p := .pack)
        rfl h (fun _ _ => rfl) (packUnit_frame (enterPhase .pack (accepted .pack s)))
    exact ⟨(eq_of_withCommandOf (exec_single_writes (p := .pack) rfl h)).trans rfl, hbytes,
      fun a ha => hbytes a ((packStored_le s).trans ha)⟩
  case parseFrame => exact (eq_of_withCommandOf (exec_single_writes (p := .parse) rfl h)).trans rfl
  case parse =>
    exact exec_single_holds (P := fun t => ∀ a, ceil8 t.bitLen.toNat ≤ a → t.payByte a = s.payByte a) (fun _ _ h => h)
      (p := .parse) rfl h (fun _ _ => rfl) (parseUnit_frame (enterPhase .parse (accepted .parse s)))
  case bytes =>
    obtain ⟨p, hp, hdst⟩ : ∃ p, phasesOf i = [p] ∧ p ≠ .frame ∧ p ≠ .unpack := by
      rcases hi with rfl | rfl <;> exact ⟨_, rfl, by decide⟩
    have hw := exec_single_writes hp h
    exact ⟨hw.srcByte a, hw.dstByte hdst a⟩

/-! ### FRAME and UNPACK -/

theorem frameUnit_frame (s : State) :
    (frameUnit s).Holds fun t => ∀ a, t.dstLen.toNat ≤ a → t.dstByte a = s.dstByte a := by
  simp only [frameUnit]
  split
  · exact fun _ _ => rfl
  · next hfit =>
    have hmax := bufBytes_le s
    have hlen : (BitVec.ofNat 32 s.frameLen).toNat = s.frameLen := Nat.mod_eq_of_lt (by omega)
    intro a ha
    have hlookup : (Memory.storeList s.dst 0 s.frameBytes).lookup a = s.dst.lookup a :=
      lookup_storeList_of_le (by rw [length_frameBytes]; rwa [hlen] at ha)
    exact congrArg (·.getD (Config.powerOnByte s.resetEra .dst a)) hlookup

/-- What is unchanged in DST after UNPACK's loop: every byte from UP_O on. -/
theorem unpackRun_frame (s : State) {a : Nat} (ha : (unpackRun s).state.upO ≤ a) :
    (unpackRun s).state.dst.lookup a = s.dst.lookup a := by
  refine unpackLoop_keeps (P := fun u => ∀ a, u.upO ≤ a → u.dst.lookup a = s.dst.lookup a) (fun _ _ h => h)
    (fun u b hu _ a ha => ?_) _ _ _ (fun _ _ => rfl) a ha
  dsimp only at ha ⊢
  rw [Memory.lookup_store_ne _ _ (by omega), hu a (by omega)]

theorem unpackUnit_frame (s : State) :
    (unpackUnit s).Holds fun t => ∀ a, unpackStored s ≤ a → t.dstByte a = s.dstByte a := by
  have hbyte : ∀ u : Unpacker, (∀ a, u.upO ≤ a → u.dst.lookup a = s.dst.lookup a) → ∀ a, u.upO ≤ a →
      (u.dst.lookup a).getD (Config.powerOnByte s.resetEra .dst a) = s.dstByte a := fun u hu a ha => by
    rw [hu a ha]; rfl
  simp only [unpackUnit]
  split
  · exact fun _ _ => rfl
  · next hbits =>
    split
    · exact fun _ _ => rfl
    · next hcnt =>
      have hstored : unpackStored s = (unpackRun s).state.upO := if_neg (not_or.2 ⟨hbits, hcnt⟩)
      have hrun := fun a => unpackRun_frame s (a := a)
      rw [hstored]
      split
      all_goals next he => rw [he] at hrun ⊢; exact hbyte _ hrun

/-- One micro-step emits at most one symbol. -/
theorem unpackBit_upO_le (nMax j : Nat) (nodeAt : Nat → Node) (single : Bool) (root : BitVec 9) (u : Unpacker) (bit : Bool) :
    (unpackBit nMax j nodeAt single root u bit).state.upO ≤ u.upO + 1 := by
  have hemit : ∀ (u : Unpacker) b, (emit nMax j u b).state.upO ≤ u.upO + 1 := fun u b => by
    rcases emit_cases nMax j u b with ⟨-, he⟩ | ⟨-, he⟩ <;> rw [he]
    · exact Nat.le_refl _
    · exact Nat.le_succ _
  cases single
  · simp only [unpackBit, unpackMatch, Bool.false_eq_true, if_false]
    split
    · next sym _ _ =>
      have hnext := hemit { u with cur := if bit then (nodeAt u.cur.toNat).high else (nodeAt u.cur.toNat).low } sym
      split
      all_goals next he => rw [he] at hnext; exact hnext
    · exact Nat.le_succ _
  · cases bit
    · exact hemit u _
    · exact Nat.le_succ _

theorem unpackLoop_upO_le (nMax : Nat) (nodeAt : Nat → Node) (single : Bool) (root : BitVec 9) (j : Nat) (bits : List Bool)
    (u : Unpacker) : (unpackLoop nMax nodeAt single root j bits u).state.upO ≤ u.upO + bits.length := by
  induction bits generalizing j u with
  | nil => simp only [unpackLoop]; split <;> exact Nat.le_refl _
  | cons bit bits ih =>
    have hbit := unpackBit_upO_le nMax j nodeAt single root u bit
    simp only [unpackLoop, List.length_cons]
    split
    · next v he =>
      rw [he] at hbit
      have hrest := ih (j + 1) v
      simp only [LoopEnd.state] at hbit
      omega
    · next he => rw [he] at hbit; simp only [LoopEnd.state] at hbit ⊢; omega

/-- UNPACK stores at most N_MAX bytes, and at most one for each bit (R173). -/
theorem unpackStored_le (s : State) : unpackStored s ≤ min s.cfg.nMax s.bitLen.toNat := by
  simp only [unpackStored]
  split
  · exact Nat.zero_le _
  · refine le_min (unpackLoop_keeps (P := fun u => u.upO ≤ s.cfg.nMax) (fun _ _ h => h) (fun _ _ _ h => h) _ _ _
      (Nat.zero_le _)) ?_
    have hle := unpackLoop_upO_le s.cfg.nMax s.nodeAt (s.nodeCnt == 1) s.root 0 s.payBits ⟨s.root, 0, s.dst⟩
    have hbits : s.payBits.length = s.bitLen.toNat := by simp [State.payBits]
    rwa [hbits, Nat.zero_add] at hle

/-- Settles O35: the two frames, and the bytes each unit leaves alone. -/
theorem outputCommandsFrame : Obligations.OutputCommandsFrame := by
  refine ⟨fun s t h => ⟨?frameFrame, ?frame⟩, fun s t h => ?unpack, fun i s t hi h a => ?bytes⟩
  case frameFrame => exact (eq_of_withCommandOf (exec_single_writes (p := .frame) rfl h)).trans rfl
  case frame =>
    exact exec_single_holds (P := fun t => ∀ a, t.dstLen.toNat ≤ a → t.dstByte a = s.dstByte a) (fun _ _ h => h)
      (p := .frame) rfl h (fun _ _ => rfl) (frameUnit_frame (enterPhase .frame (accepted .frame s)))
  case unpack =>
    have hbytes : ∀ a, unpackStored (accept .unpack true s) ≤ a → t.dstByte a = s.dstByte a :=
      exec_single_holds (P := fun t => ∀ a, unpackStored (accept .unpack true s) ≤ a → t.dstByte a = s.dstByte a)
        (fun _ _ h => h) (p := .unpack) rfl h (fun _ _ => rfl) (unpackUnit_frame (enterPhase .unpack (accepted .unpack s)))
    exact ⟨(eq_of_withCommandOf (exec_single_writes (p := .unpack) rfl h)).trans rfl, hbytes,
      fun a ha => hbytes a ((unpackStored_le (accept .unpack true s)).trans ha)⟩
  case bytes =>
    obtain ⟨p, hp, hpay⟩ : ∃ p, phasesOf i = [p] ∧ p ≠ .pack ∧ p ≠ .parse := by
      rcases hi with rfl | rfl <;> exact ⟨_, rfl, by decide⟩
    have hw := exec_single_writes hp h
    exact ⟨hw.srcByte a, hw.payByte hpay a⟩

end Sys2Proof.Machine
end

section
/-! PROOFS. What the host may do (R41, R47, R236): no command and no write refuses, so a step refuses what `transaction` does and
a transaction of another width. Settles O48 and O49. -/

namespace Sys2Proof.Machine

/-! ### Commands refuse nothing -/

theorem runUnits_ne_refused (us : List (Phase × (State → UnitResult))) (s : State) (r : Refusal) :
    runUnits us s ≠ .refused r := by
  induction us generalizing s with
  | nil => exact nofun
  | cons pu rest ih =>
    simp only [runUnits]
    split
    · exact ih _
    · exact nofun
    · exact nofun

theorem exec_ne_refused (i : Instr) (s : State) (r : Refusal) : exec i s ≠ .refused r := by
  cases hi : isWorking i
  · cases i with
    | nop | srst => exact nofun
    | clrst => simp only [exec, execClrst]; split <;> exact nofun
    | _ => cases hi
  · rw [exec_of_working hi]
    rcases runWorking_cases ((phasesOf i).headD .idle) (producesDst i) (unitsOf i) s with ⟨-, he⟩ | ⟨-, he⟩ <;> rw [he]
    · exact nofun
    · exact runUnits_ne_refused _ _ r

theorem hostWrite_ne_refused (off : Nat) (d : Word) (s : State) (r : Refusal) : hostWrite off d s ≠ .refused r := by
  unfold hostWrite
  split
  · unfold writeCmd
    split
    · next i _ =>
      split
      · exact nofun
      · exact nofun
      · next he => exact absurd he (exec_ne_refused i s _)
    · exact nofun
  · exact nofun
  · exact nofun

/-! ### Refused steps -/

theorem transactionWf_iff {off : Nat} : transactionWf 32 off = true ↔ off % 4 = 0 ∧ off ≤ 0xFC := by
  simp [transactionWf]

/-- The two refusals of a 32-bit transaction (R41, R236). -/
def refusedAs (off : Nat) (op : HostOp) (unseen : Bool) (r : Refusal) : Prop :=
  (¬ (off % 4 = 0 ∧ off ≤ 0xFC) ∧ r = .outsideInterface 32 off) ∨
    ((off % 4 = 0 ∧ off ≤ 0xFC) ∧ unseen = true ∧ allowedUnseen op = false ∧ r = .busyAccess off)

theorem transaction_refused_iff {off : Nat} {op : HostOp} {s : State} {o : Host.Outcome State Fault Refusal} {r : Refusal}
    (ho : ∀ r, o ≠ .refused r) : transaction off op s o = .refused r ↔ refusedAs off op s.unseen r := by
  rw [refusedAs, ← transactionWf_iff]
  rcases transaction_cases off op s o with ⟨hwf, he⟩ | ⟨hwf, hu, ha, he⟩ | ⟨hwf, hallow, he⟩
  · rw [he, hwf]
    constructor
    · intro h; cases h; exact .inl ⟨nofun, rfl⟩
    · rintro (⟨-, rfl⟩ | ⟨h, -⟩)
      · rfl
      · cases h
  · rw [he, hwf, hu, ha]
    constructor
    · intro h; cases h; exact .inr ⟨rfl, rfl, rfl, rfl⟩
    · rintro (⟨h, -⟩ | ⟨-, -, -, rfl⟩)
      · exact absurd rfl h
      · rfl
  · rw [he]
    refine ⟨fun h => absurd h (ho r), ?_⟩
    rintro (⟨h, -⟩ | ⟨-, hu, ha, -⟩)
    · exact absurd hwf h
    · rw [hu, ha] at hallow; simp at hallow

/-- A step refuses a read or write as `transaction` does, a transaction of another width, and nothing else. -/
theorem step_refused_iff {s : State} {r : Refusal} : step s = .refused r ↔
    (∃ off rest, s.host = .read off :: rest ∧ refusedAs off (.read off) s.unseen r) ∨
      (∃ off d rest, s.host = .write off d :: rest ∧ refusedAs off (.write off d) s.unseen r) ∨
      ∃ w off rest, s.host = .irregular w off :: rest ∧ r = .outsideInterface w off := by
  rcases hq : s.host with _ | ⟨op, rest⟩
  · simp [step, hq]
  · simp only [step, hq]
    cases op with
    | read off =>
      have hiff := transaction_refused_iff (off := off) (op := .read off) (s := { s with host := rest }) (r := r)
        (o := .next (hostRead off (tick { s with host := rest }))) (fun _ => nofun)
      simpa [hostStep] using hiff
    | write off d =>
      have hiff := transaction_refused_iff (off := off) (op := .write off d) (s := { s with host := rest }) (r := r)
        (hostWrite_ne_refused off d (tick { s with host := rest }))
      simpa [hostStep] using hiff
    | irregular w off => simp [hostStep, eq_comm]
    | wait | waitIrq | hardReset => simp [hostStep]

theorem allowedUnseen_read {off : Nat} : allowedUnseen (.read off) = false ↔ off ≠ 0x00 ∧ off ≠ 0x08 := by
  simp [allowedUnseen]

theorem allowedUnseen_write {off : Nat} {d : Word} :
    allowedUnseen (.write off d) = false ↔ ¬ (off = 0x04 ∧ d = 0x0000000F#32) := by
  simp [allowedUnseen, encode]

/-- Settles O48: the three forms of a refused step. -/
theorem onlyOutsideTransactionsAreRefused : Obligations.OnlyOutsideTransactionsAreRefused := by
  intro s
  refine ⟨?outside, ?busy, fun r h => ?only⟩
  case outside =>
    constructor
    · rintro ⟨w, off, h⟩
      rcases step_refused_iff.1 h with ⟨off, rest, hq, h⟩ | ⟨off, d, rest, hq, h⟩ | ⟨w, off, rest, hq, -⟩
      · rcases h with ⟨hwf, -⟩ | ⟨-, -, -, h⟩
        · exact .inl ⟨off, rest, hq, by omega⟩
        · cases h
      · rcases h with ⟨hwf, -⟩ | ⟨-, -, -, h⟩
        · exact .inr (.inl ⟨off, d, rest, hq, by omega⟩)
        · cases h
      · exact .inr (.inr ⟨w, off, rest, hq⟩)
    · rintro (⟨off, rest, hq, hwf⟩ | ⟨off, d, rest, hq, hwf⟩ | ⟨w, off, rest, hq⟩)
      · exact ⟨_, _, step_refused_iff.2 (.inl ⟨off, rest, hq, .inl ⟨by omega, rfl⟩⟩)⟩
      · exact ⟨_, _, step_refused_iff.2 (.inr (.inl ⟨off, d, rest, hq, .inl ⟨by omega, rfl⟩⟩))⟩
      · exact ⟨_, _, step_refused_iff.2 (.inr (.inr ⟨w, off, rest, hq, rfl⟩))⟩
  case busy =>
    constructor
    · rintro ⟨off, h⟩
      rcases step_refused_iff.1 h with ⟨off, rest, hq, h⟩ | ⟨off, d, rest, hq, h⟩ | ⟨w, off, rest, hq, h⟩
      · rcases h with ⟨-, h⟩ | ⟨⟨h4, hmax⟩, hu, ha, -⟩
        · cases h
        · exact ⟨hu, .inl ⟨off, rest, hq, h4, hmax, allowedUnseen_read.1 ha⟩⟩
      · rcases h with ⟨-, h⟩ | ⟨⟨h4, hmax⟩, hu, ha, -⟩
        · cases h
        · exact ⟨hu, .inr ⟨off, d, rest, hq, h4, hmax, allowedUnseen_write.1 ha⟩⟩
      · cases h
    · rintro ⟨hu, ⟨off, rest, hq, h4, hmax, ha⟩ | ⟨off, d, rest, hq, h4, hmax, ha⟩⟩
      · exact ⟨_, step_refused_iff.2 (.inl ⟨off, rest, hq, .inr ⟨⟨h4, hmax⟩, hu, allowedUnseen_read.2 ha, rfl⟩⟩)⟩
      · exact ⟨_, step_refused_iff.2 (.inr (.inl ⟨off, d, rest, hq, .inr ⟨⟨h4, hmax⟩, hu, allowedUnseen_write.2 ha, rfl⟩⟩))⟩
  case only =>
    rcases step_refused_iff.1 h with ⟨off, _, -, h⟩ | ⟨off, d, _, -, h⟩ | ⟨w, off, _, -, rfl⟩
    · rcases h with ⟨-, rfl⟩ | ⟨-, -, -, rfl⟩
      · exact .inl ⟨_, _, rfl⟩
      · exact .inr ⟨_, rfl⟩
    · rcases h with ⟨-, rfl⟩ | ⟨-, -, -, rfl⟩
      · exact .inl ⟨_, _, rfl⟩
      · exact .inr ⟨_, rfl⟩
    · exact .inl ⟨_, _, rfl⟩

/-! ### The BUSY window -/

/-- A host that breaks R236's rule is refused. -/
theorem step_refused_of_not_followsBusyRule {s : State} (h : s.followsBusyRule = false) : ∃ r, step s = .refused r := by
  unfold State.followsBusyRule at h
  split at h
  · cases h
  · next op rest hq =>
    simp only [Bool.or_eq_false_iff, Bool.not_eq_false'] at h
    obtain ⟨hu, ha⟩ := h
    have hrefused : ∀ off, ∃ r, refusedAs off op s.unseen r := fun off => by
      by_cases hwf : off % 4 = 0 ∧ off ≤ 0xFC
      · exact ⟨_, .inr ⟨hwf, hu, ha, rfl⟩⟩
      · exact ⟨_, .inl ⟨hwf, rfl⟩⟩
    cases op with
    | read off =>
      obtain ⟨r, hr⟩ := hrefused off
      exact ⟨r, step_refused_iff.2 (.inl ⟨off, rest, hq, hr⟩)⟩
    | write off d =>
      obtain ⟨r, hr⟩ := hrefused off
      exact ⟨r, step_refused_iff.2 (.inr (.inl ⟨off, d, rest, hq, hr⟩))⟩
    | irregular w off => exact ⟨_, step_refused_iff.2 (.inr (.inr ⟨w, off, rest, hq, rfl⟩))⟩
    | wait | waitIrq | hardReset => cases ha

/-- A step that goes on with an operation R236 does not allow in the window is one of an idle core: the host has seen BUSY = 0. -/
theorem idle_of_step_next {s t : State} {op : HostOp} {rest : List HostOp} (hs : s.statusOk = true) (hq : s.host = op :: rest)
    (hop : allowedUnseen op = false) (h : step s = .next t) :
    s.unseen = false ∧ s.flight = none ∧ s.status.busy = false := by
  have hu : s.unseen = false := by
    by_contra hu
    obtain ⟨r, hr⟩ := step_refused_of_not_followsBusyRule (s := s) (by simp [State.followsBusyRule, hq, hop, hu])
    rw [hr] at h; cases h
  rcases hf : s.flight with _ | f
  · obtain ⟨hb, -⟩ := latchOk_iff.1 (statusOk_of_idle hf ▸ hs)
    exact ⟨hu, rfl, hb⟩
  · have hunseen := ((statusOk_of_flight hf).1 hs).2
    rw [hu] at hunseen; cases hunseen

/-- While BUSY = 1 a read changes nothing but the host's replies (R236). -/
theorem hostRead_of_busy {s : State} (hb : s.status.busy = true) (off : Nat) : ∃ v, hostRead off s = reply v s := by
  simp only [hostRead, hb, if_true, busyRead]
  split <;> exact ⟨_, rfl⟩

theorem regAt_eq_cmd {off : Nat} (h : regAt off = some .cmd) : off = 0x04 := by
  unfold regAt at h
  split at h <;> cases h
  rfl

/-- While BUSY = 1 a write of anything but CMD is ignored (R236). -/
theorem hostWrite_of_busy {s : State} (hb : s.status.busy = true) {off : Nat} (hoff : off ≠ 0x04) (d : Word) :
    hostWrite off d s = .next s := by
  unfold hostWrite
  split
  · next hr => exact absurd (regAt_eq_cmd hr) hoff
  · rw [if_pos hb]
  · rfl

/-- Settles O49: reads and writes of a busy core, and a step that is not refused. -/
theorem busyWindowRule : Obligations.BusyWindowRule := by
  refine ⟨fun s hb => ⟨fun _ d hoff => hostWrite_of_busy hb hoff d, hostRead_of_busy hb, if_pos hb, if_pos hb⟩,
    fun s t op rest hs hq h => ⟨?read, ?write⟩, fun _ => step_refused_of_not_followsBusyRule⟩
  case read =>
    rintro off rfl h0 h8
    exact idle_of_step_next hs hq (allowedUnseen_read.2 ⟨h0, h8⟩) h
  case write =>
    rintro off d rfl hsrst
    exact idle_of_step_next hs hq (allowedUnseen_write.2 hsrst) h

end Sys2Proof.Machine
end

section
/-! PROOFS. The cost of the builder's tree. The queue's members root a forest; a merge adds the weight of the new node to the cost
of the forest, the sum over its internal nodes. Of at most 2^m trees, merging the two lightest until 2^(m-1) are left costs at
most the total weight, since each merge can be charged to two trees not charged before. So the tree over at most 256 leaves costs
at most 8 times the total weight. For O41. -/

namespace Sys2Proof.Machine

/-! ### Trees and forests -/

/-- A code tree. -/
inductive HTree where
  | leaf (b : Byte)
  | node (low high : HTree)

namespace HTree

/-- The sum of the leaves' frequencies. -/
def weight (f : Vector Word 256) : HTree → Nat
  | leaf b => (atSym f b).toNat
  | node l h => l.weight f + h.weight f

/-- The sum of the weights of the internal nodes: what all leaves' paths take, weighted (R127 (h)). -/
def cost (f : Vector Word 256) : HTree → Nat
  | leaf _ => 0
  | node l h => l.weight f + h.weight f + l.cost f + h.cost f

/-- The symbols at the leaves. -/
def symbols : HTree → List Byte
  | leaf b => [b]
  | node l h => l.symbols ++ h.symbols

end HTree

/-- `t` is the tree below entry `m` of an arena (R15, R78). -/
inductive Roots (ns : List Node) : Nat → HTree → Prop
  | leaf {m : Nat} {b : Byte} {w : Word} (h : ns[m]? = some (.leaf b w)) : Roots ns m (.leaf b)
  | node {m : Nat} {w : Word} {l h : BitVec 9} {tl th : HTree} (hm : ns[m]? = some (.internal w l h))
      (hl : Roots ns l.toNat tl) (hh : Roots ns h.toNat th) : Roots ns m (.node tl th)

theorem Roots.append {ns : List Node} {m : Nat} {t : HTree} (h : Roots ns m t) (ms : List Node) : Roots (ns ++ ms) m t := by
  have hold : ∀ {i : Nat} {n : Node}, ns[i]? = some n → (ns ++ ms)[i]? = some n := fun hi => by
    rw [List.getElem?_append_left (List.getElem?_eq_some_iff.1 hi).1, hi]
  induction h with
  | leaf h => exact .leaf (hold h)
  | node hm _ _ ihl ihh => exact .node (hold hm) ihl ihh

theorem Roots.lt {ns : List Node} {m : Nat} {t : HTree} (h : Roots ns m t) : m < ns.length := by
  cases h with
  | leaf h => exact (List.getElem?_eq_some_iff.1 h).1
  | node h => exact (List.getElem?_eq_some_iff.1 h).1

/-- Entry `m` roots a tree, and holds its weight. -/
def RootsWeighed (f : Vector Word 256) (ns : List Node) (m : Nat) (t : HTree) : Prop :=
  Roots ns m t ∧ (arenaFreq ns m).toNat = t.weight f

theorem RootsWeighed.append {f : Vector Word 256} {ns : List Node} {m : Nat} {t : HTree} (h : RootsWeighed f ns m t)
    (ms : List Node) : RootsWeighed f (ns ++ ms) m t :=
  ⟨h.1.append ms, by rw [arenaFreq_append ms h.1.lt]; exact h.2⟩

/-- The forest of a builder: the trees that the queue's members root, with all weight and all present symbols in them. -/
structure Forest (f : Vector Word 256) (b : Builder) (ts : List HTree) : Prop where
  roots : List.Forall₂ (RootsWeighed f b.nodes) b.inq ts
  total : (ts.map (HTree.weight f)).sum = freqTotal f
  covers : ∀ x ∈ presentSymbols f, ∃ t ∈ ts, x ∈ t.symbols

theorem forest_loadLeaves (f : Vector Word 256) : Forest f (loadLeaves f) ((presentSymbols f).map .leaf) where
  roots := by
    rw [List.forall₂_iff_get]
    refine ⟨by simp [loadLeaves, leavesOf], fun i hi hi' => ?_⟩
    have hlen : i < (presentSymbols f).length := by simpa using hi'
    have hleaf : (leavesOf f)[i]? = some (.leaf (presentSymbols f)[i] (atSym f (presentSymbols f)[i])) := by
      simp [leavesOf, hlen]
    simp only [loadLeaves, List.get_eq_getElem, List.getElem_range, List.getElem_map]
    exact ⟨.leaf hleaf, by simp only [arenaFreq, hleaf]; rfl⟩
  total := by
    rw [← sum_freq_leavesOf, leavesOf, List.map_map, List.map_map]; rfl
  covers x hx := ⟨.leaf x, List.mem_map_of_mem hx, List.mem_singleton_self x⟩

/-! ### The two lightest -/

theorem arenaFreq_keyMin_le (nodes : List Node) (i j : Nat) :
    (arenaFreq nodes (keyMin nodes i j)).toNat ≤ (arenaFreq nodes i).toNat ∧
      (arenaFreq nodes (keyMin nodes i j)).toNat ≤ (arenaFreq nodes j).toNat := by
  by_cases h : keyLt nodes j i = true
  · rw [keyMin, if_pos h]
    simp only [keyLt, Bool.or_eq_true, decide_eq_true_eq, Bool.and_eq_true, beq_iff_eq] at h
    rcases h with h | ⟨h, -⟩
    · omega
    · rw [h]; exact ⟨Nat.le_refl _, Nat.le_refl _⟩
  · rw [keyMin, if_neg h]
    simp only [keyLt, Bool.or_eq_true, decide_eq_true_eq, not_or] at h
    omega

/-- The arbiter's pick is the lightest member (R122). -/
theorem arenaFreq_pqMin_le (nodes : List Node) {q : List Nat} {j : Nat} (h : j ∈ q) :
    (arenaFreq nodes (pqMin nodes q)).toNat ≤ (arenaFreq nodes j).toNat := by
  have hfold : ∀ (is : List Nat) (i : Nat), ∀ j ∈ i :: is,
      (arenaFreq nodes (is.foldl (keyMin nodes) i)).toNat ≤ (arenaFreq nodes j).toNat := by
    intro is
    induction is with
    | nil => intro i j hj; rw [List.mem_singleton.1 hj]; exact Nat.le_refl _
    | cons k is ih =>
      intro i j hj
      obtain ⟨hi, hk⟩ := arenaFreq_keyMin_le nodes i k
      have hhead := ih (keyMin nodes i k) _ List.mem_cons_self
      rw [List.foldl_cons]
      rcases List.mem_cons.1 hj with rfl | hj
      · exact hhead.trans hi
      · rcases List.mem_cons.1 hj with rfl | hj
        · exact hhead.trans hk
        · exact ih _ j (List.mem_cons_of_mem _ hj)
  cases q with
  | nil => cases h
  | cons i is => exact hfold is i j h

/-- A merge takes the two lightest members off the queue (R120, R122). -/
theorem mergeStep_takes_lightest {b : Builder} (h : 1 < b.inq.length) :
    ∃ lo hi rest, b.inq.Perm (lo :: hi :: rest) ∧
      mergeStep b = ⟨b.nodes ++ [mergeNode b.nodes lo hi], rest ++ [b.nodes.length]⟩ ∧
      (∀ j ∈ hi :: rest, (arenaFreq b.nodes lo).toNat ≤ (arenaFreq b.nodes j).toNat) ∧
      ∀ j ∈ rest, (arenaFreq b.nodes hi).toNat ≤ (arenaFreq b.nodes j).toNat := by
  have hlo : pqMin b.nodes b.inq ∈ b.inq := pqMin_mem _ (List.ne_nil_of_length_pos (by omega))
  have hlen := List.length_erase_of_mem hlo
  have hhi : pqMin b.nodes (b.inq.erase (pqMin b.nodes b.inq)) ∈ b.inq.erase (pqMin b.nodes b.inq) :=
    pqMin_mem _ (List.ne_nil_of_length_pos (by omega))
  have hperm := List.perm_cons_erase hhi
  exact ⟨_, _, _, (List.perm_cons_erase hlo).trans (hperm.cons _), rfl,
    fun j hj => arenaFreq_pqMin_le _ (List.mem_of_mem_erase (hperm.mem_iff.2 hj)),
    fun j hj => arenaFreq_pqMin_le _ (List.mem_of_mem_erase hj)⟩

/-- An entry that is no heavier than some others roots a tree no heavier than theirs. -/
theorem lightest_of_roots {f : Vector Word 256} {ns : List Node} {i : Nat} {t : HTree} {js : List Nat} {vs : List HTree}
    (ht : RootsWeighed f ns i t) (hvs : List.Forall₂ (RootsWeighed f ns) js vs)
    (hle : ∀ j ∈ js, (arenaFreq ns i).toNat ≤ (arenaFreq ns j).toNat) : ∀ v ∈ vs, t.weight f ≤ v.weight f := by
  induction hvs with
  | nil => exact nofun
  | cons hv _ ih =>
    intro v hmem
    rcases List.mem_cons.1 hmem with rfl | hmem
    · rw [← ht.2, ← hv.2]; exact hle _ List.mem_cons_self
    · exact ih (fun j hj => hle j (List.mem_cons_of_mem _ hj)) v hmem

/-- A merge joins the two lightest trees of the forest. -/
theorem forest_mergeStep {f : Vector Word 256} {b : Builder} {ts : List HTree} (hb : BuilderOk f b) (hf : Forest f b ts)
    (hmax : freqTotal f < 2 ^ 32) (h : 1 < b.inq.length) :
    ∃ x y rest, ts.Perm (x :: y :: rest) ∧ (∀ t ∈ y :: rest, x.weight f ≤ t.weight f) ∧
      (∀ t ∈ rest, y.weight f ≤ t.weight f) ∧ Forest f (mergeStep b) (rest ++ [.node x y]) := by
  obtain ⟨lo, hi, is, hperm, hstep, hlo, hhi⟩ := mergeStep_takes_lightest h
  obtain ⟨us, hroots, hus⟩ := List.perm_comp_forall₂ hperm.symm hf.roots
  obtain ⟨x, vs, hx, htail, rfl⟩ := List.forall₂_cons_left_iff.1 hroots
  obtain ⟨y, rest, hy, hrest, rfl⟩ := List.forall₂_cons_left_iff.1 htail
  have htotal := hf.total
  rw [← (hus.map _).sum_eq] at htotal
  simp only [List.map_cons, List.sum_cons] at htotal
  refine ⟨x, y, rest, hus.symm, lightest_of_roots hx (.cons hy hrest) hlo,
    lightest_of_roots hy hrest hhi, ?roots, ?total, ?covers⟩
  case roots =>
    have hk := length_leavesOf_le f
    have hcount := hb.count
    have hlo' : (BitVec.ofNat 9 lo).toNat = lo := Nat.mod_eq_of_lt (by have := hx.1.lt; omega)
    have hhi' : (BitVec.ofNat 9 hi).toNat = hi := Nat.mod_eq_of_lt (by have := hy.1.lt; omega)
    have hnew : (b.nodes ++ [mergeNode b.nodes lo hi])[b.nodes.length]? = some (mergeNode b.nodes lo hi) := by simp
    have hsum : (arenaFreq b.nodes lo + arenaFreq b.nodes hi).toNat = x.weight f + y.weight f := by
      rw [BitVec.toNat_add, hx.2, hy.2]; exact Nat.mod_eq_of_lt (by omega)
    rw [hstep]
    refine List.rel_append (hrest.imp fun i t ht => ht.append _) (.cons ⟨.node hnew ?_ ?_, ?_⟩ .nil)
    · rw [hlo']; exact hx.1.append _
    · rw [hhi']; exact hy.1.append _
    · rw [arenaFreq_concat_length]; exact hsum
  case total =>
    simp only [List.map_append, List.map_cons, List.map_nil, List.sum_append, List.sum_cons, List.sum_nil, HTree.weight]
    omega
  case covers =>
    intro s hs
    obtain ⟨t, ht, hst⟩ := hf.covers s hs
    have ht' := hus.mem_iff.2 ht
    simp only [List.mem_cons] at ht'
    rcases ht' with rfl | rfl | ht'
    · exact ⟨.node t y, by simp, by simp [HTree.symbols, hst]⟩
    · exact ⟨.node x t, by simp, by simp [HTree.symbols, hst]⟩
    · exact ⟨t, by simp [ht'], hst⟩

/-! ### Charging merges -/

/-- One of the lightest elements can be charged to an element of any nonempty selection, which is then given up. -/
theorem exists_charge_one {x : Nat} {r a : Multiset Nat} (hx : ∀ z ∈ r, x ≤ z) (ha : a ≤ x ::ₘ r) (hcard : 1 ≤ a.card) :
    ∃ a' ≤ r, a'.card + 1 = a.card ∧ x + a'.sum ≤ a.sum := by
  have hgive : ∀ z ∈ a, x ≤ z → (a.erase z).card + 1 = a.card ∧ x + (a.erase z).sum ≤ a.sum := fun z hz hxz => by
    rw [← Multiset.sum_erase hz, Multiset.card_erase_of_mem hz]
    exact ⟨Nat.sub_add_cancel hcard, Nat.add_le_add_right hxz _⟩
  by_cases hmem : x ∈ a
  · exact ⟨a.erase x, Multiset.erase_le_iff_le_cons.2 ha, hgive x hmem (Nat.le_refl x)⟩
  · have har : a ≤ r := (Multiset.le_cons_of_notMem hmem).1 ha
    obtain ⟨z, hz⟩ := Multiset.card_pos_iff_exists_mem.1 hcard
    exact ⟨a.erase z, (Multiset.erase_le z a).trans har, hgive z hz (hx z (Multiset.mem_of_le har hz))⟩

/-- The two lightest elements together can be charged to two elements of a selection. -/
theorem exists_charge_two {x y : Nat} {r a : Multiset Nat} (hx : ∀ z ∈ y ::ₘ r, x ≤ z) (hy : ∀ z ∈ r, y ≤ z)
    (ha : a ≤ x ::ₘ y ::ₘ r) (hcard : 2 ≤ a.card) : ∃ a' ≤ r, a'.card + 2 = a.card ∧ x + y + a'.sum ≤ a.sum := by
  obtain ⟨a₁, h₁, hc₁, hs₁⟩ := exists_charge_one hx ha (by omega)
  obtain ⟨a₂, h₂, hc₂, hs₂⟩ := exists_charge_one hy h₁ (by omega)
  exact ⟨a₂, h₂, by omega, by omega⟩

/-- A round: with all but one of the selection charged, at most 2^m trees are left, and the next selection is all of them. -/
theorem exists_round {q a : Multiset Nat} {m : Nat} (ha : a ≤ q) (hq : 2 ≤ q.card)
    (hm : 2 * q.card ≤ 2 ^ (m + 1) + a.card) :
    ∃ a' m', a' ≤ q ∧ 2 ≤ a'.card ∧ 2 * q.card ≤ 2 ^ (m' + 1) + a'.card ∧ a'.sum + m' * q.sum ≤ a.sum + m * q.sum := by
  by_cases hcard : 2 ≤ a.card
  · exact ⟨a, m, ha, hcard, hm, Nat.le_refl _⟩
  · cases m with
    | zero => omega
    | succ m =>
      rw [Nat.pow_succ] at hm
      exact ⟨q, m, le_rfl, hq, by omega, by rw [Nat.succ_mul]; omega⟩

/-- The weights of a forest. -/
def weights (f : Vector Word 256) (ts : List HTree) : Multiset Nat := (ts.map (HTree.weight f) : List Nat)

/-- BUILD's loop adds to the cost of the forest what is left to charge in this round, and the total weight for each round after
it. -/
theorem mergeLoop_cost_le {f : Vector Word 256} (hmax : freqTotal f < 2 ^ 32) (n : Nat) {b : Builder} {ts : List HTree}
    {a : Multiset Nat} {m : Nat} (hb : BuilderOk f b) (hf : Forest f b ts) (ha : a ≤ weights f ts)
    (hm : 2 * ts.length ≤ 2 ^ (m + 1) + a.card) :
    ∃ ts', Forest f (mergeLoop n b) ts' ∧
      (ts'.map (HTree.cost f)).sum ≤ (ts.map (HTree.cost f)).sum + a.sum + m * freqTotal f := by
  induction n generalizing b ts a m with
  | zero => exact ⟨ts, hf, by omega⟩
  | succ n ih =>
    simp only [mergeLoop]
    split
    · next hgt =>
      have hlen : ts.length = b.inq.length := hf.roots.length_eq.symm
      have hcard : (weights f ts).card = ts.length := by simp [weights]
      have hsum : (weights f ts).sum = freqTotal f := by rw [← hf.total]; simp [weights]
      obtain ⟨a₁, m₁, ha₁, hc₁, hm₁, hs₁⟩ := exists_round ha (by omega) (by rwa [hcard])
      obtain ⟨x, y, rest, hperm, hx, hy, hf'⟩ := forest_mergeStep hb hf hmax hgt
      have hweights : weights f ts = x.weight f ::ₘ y.weight f ::ₘ weights f rest :=
        Multiset.coe_eq_coe.2 (hperm.map _)
      have hcost := (hperm.map (HTree.cost f)).sum_eq
      have hlen' := hperm.length_eq
      obtain ⟨a₂, ha₂, hc₂, hs₂⟩ := exists_charge_two (by simpa [weights] using hx) (by simpa [weights] using hy)
        (hweights ▸ ha₁) hc₁
      have ha₃ : a₂ ≤ weights f (rest ++ [.node x y]) := by
        refine ha₂.trans ?_
        simp only [weights, List.map_append, ← Multiset.coe_add]
        exact Multiset.le_add_right _ _
      obtain ⟨ts', hforest, hle⟩ := ih (m := m₁) (builderOk_mergeStep hb hgt).1 hf' ha₃ (by
        simp only [List.length_append, List.length_cons, List.length_nil] at hlen' ⊢; omega)
      refine ⟨ts', hforest, hle.trans ?_⟩
      simp only [List.map_append, List.map_cons, List.map_nil, List.sum_append, List.sum_cons, List.sum_nil, HTree.cost]
        at hcost ⊢
      rw [hsum] at hs₁
      omega
    · exact ⟨ts, hf, by omega⟩

/-- The builder's forest costs at most 8 bits per counted byte: there are at most 2^8 leaves. -/
theorem buildTree_forest {f : Vector Word 256} (hmax : freqTotal f < 2 ^ 32) :
    ∃ ts, Forest f (buildTree f) ts ∧ (ts.map (HTree.cost f)).sum ≤ 8 * freqTotal f := by
  have hlen : (presentSymbols f).length ≤ 256 := length_leavesOf f ▸ length_leavesOf_le f
  obtain ⟨ts, hf, hle⟩ := mergeLoop_cost_le hmax (loadLeaves f).inq.length (a := 0) (m := 8) (builderOk_loadLeaves f)
    (forest_loadLeaves f) (Multiset.zero_le _) (by rw [List.length_map]; omega)
  have hleaves : ((presentSymbols f).map (HTree.cost f ∘ .leaf)).sum = 0 := by
    simp [Function.comp_def, HTree.cost]
  rw [List.map_map, hleaves] at hle
  exact ⟨ts, hf, by simpa using hle⟩

/-- The tree that BUILD leaves over a table with symbols: all of them are in it, its weight is the table's sum, and its cost at
most 8 times that. -/
theorem buildTree_root {f : Vector Word 256} (hmax : freqTotal f < 2 ^ 32) (h : leavesOf f ≠ []) :
    ∃ t, Roots (buildTree f).nodes ((buildTree f).nodes.length - 1) t ∧ t.weight f = freqTotal f ∧
      t.cost f ≤ 8 * freqTotal f ∧ ∀ b ∈ presentSymbols f, b ∈ t.symbols := by
  obtain ⟨ts, hforest, hcost⟩ := buildTree_forest hmax
  have hroots := hforest.roots
  rw [inq_buildTree h] at hroots
  obtain ⟨t, _, ⟨hroot, -⟩, hrest, rfl⟩ := List.forall₂_cons_left_iff.1 hroots
  cases hrest
  refine ⟨t, hroot, by simpa using hforest.total, by simpa using hcost, fun b hb => ?_⟩
  obtain ⟨u, hu, hbu⟩ := hforest.covers b hb
  rwa [List.mem_singleton.1 hu] at hbu

end Sys2Proof.Machine
end

section
/-! PROOFS. What COUNT, BUILD and WALK leave for PACK: every byte of SRC has a code, and all the codes take at most 8 bits per
byte, so that PACK after them does not fail. For O41. -/

namespace Sys2Proof.Machine

/-! ### COUNT -/

theorem atSym_foldl_tally (bs : List Byte) (f : Vector Word 256) (b : Byte) :
    atSym (bs.foldl tally f) b = atSym f b + BitVec.ofNat 32 (bs.count b) := by
  induction bs generalizing f with
  | nil => simp
  | cons c bs ih =>
    rw [List.foldl_cons, ih, tally]
    by_cases hbc : b = c
    · subst hbc
      rw [atSym_setSym_same, List.count_cons_self, Nat.add_comm, BitVec.ofNat_add, BitVec.add_assoc]; rfl
    · rw [atSym_setSym_ne _ _ hbc, List.count_cons_of_ne (Ne.symm hbc)]

/-- The counter holds how often each byte occurs (R112). -/
theorem atSym_countBytes {bs : List Byte} (h : bs.length < 2 ^ 32) (b : Byte) :
    (atSym (countBytes bs) b).toNat = bs.count b := by
  rw [countBytes, atSym_foldl_tally, atSym_replicate, show (0 : Word) = 0#32 from rfl, BitVec.zero_add]
  exact Nat.mod_eq_of_lt (List.count_le_length.trans_lt h)

/-! ### WALK -/

theorem codeLen_setSym_same (codes : Vector (Option Code) 256) (b : Byte) (c : Code) :
    codeLen (setSym codes b (some c)) b = c.len.toNat := by
  rw [codeLen_of_some (atSym_setSym_same _ _ _), Code.bits_length]

theorem codeLen_setSym_ne (codes : Vector (Option Code) 256) {a b : Byte} (c : Code) (h : a ≠ b) :
    codeLen (setSym codes b (some c)) a = codeLen codes a := by
  rw [codeLen, atSym_setSym_ne _ _ h]; rfl

/-- A new code adds at most its length for each time the byte occurs. -/
theorem codedBits_setSym_le (codes : Vector (Option Code) 256) (b : Byte) (c : Code) (bs : List Byte) :
    codedBits (setSym codes b (some c)) bs ≤ codedBits codes bs + bs.count b * c.len.toNat := by
  induction bs with
  | nil => exact Nat.zero_le _
  | cons a bs ih =>
    rw [codedBits_cons, codedBits_cons]
    by_cases hab : a = b
    · subst hab
      rw [codeLen_setSym_same, List.count_cons_self, Nat.succ_mul]; omega
    · rw [codeLen_setSym_ne _ _ hab, List.count_cons_of_ne hab]; omega

theorem isSome_setSym {codes : Vector (Option Code) 256} {a b : Byte} (c : Code)
    (h : a = b ∨ (atSym codes a).isSome = true) : (atSym (setSym codes b (some c)) a).isSome = true := by
  by_cases hab : a = b
  · rw [hab, atSym_setSym_same]; rfl
  · rw [atSym_setSym_ne _ _ hab]; exact h.resolve_left hab

section Walk
variable {ns : List Node} {nodeAt : Nat → Node} {f : Vector Word 256} {bs : List Byte}

/-- From an entry that roots a tree the walk comes, if it ends, to the rest of its stack: with a code for each symbol of the tree,
and with at most the tree's cost added to the bits that the bytes take, and its weight for each step of the path to it. -/
theorem walkLoop_tree (hat : ∀ m n, ns[m]? = some n → nodeAt m = n) (hbs : ∀ b, bs.count b ≤ (atSym f b).toNat)
    {t : HTree} {e : WalkEntry} (ht : Roots ns e.node.toNat t) {fuel : Nat} {stack : List WalkEntry}
    {codes codes' : Vector (Option Code) 256} (h : walkLoop nodeAt fuel (e :: stack) codes = some codes') :
    ∃ fuel' mid, walkLoop nodeAt fuel' stack mid = some codes' ∧
      (∀ b, b ∈ t.symbols ∨ (atSym codes b).isSome = true → (atSym mid b).isSome = true) ∧
      codedBits mid bs ≤ codedBits codes bs + t.weight f * e.len.toNat + t.cost f := by
  induction t generalizing e fuel stack codes with
  | leaf b =>
    obtain ⟨hm⟩ := ht
    cases fuel with
    | zero => cases h
    | succ fuel =>
      simp only [walkLoop, hat _ _ hm] at h
      refine ⟨fuel, _, h, fun a ha => isSome_setSym _ (ha.imp_left List.mem_singleton.1), ?_⟩
      exact (codedBits_setSym_le codes b _ bs).trans (Nat.add_le_add_left (Nat.mul_le_mul_right _ (hbs b)) _)
  | node l r ihl ihr =>
    obtain _ | ⟨hm, hl, hr⟩ := ht
    cases fuel with
    | zero => cases h
    | succ fuel =>
      simp only [walkLoop, hat _ _ hm] at h
      obtain ⟨fuel₁, mid₁, h₁, hsome₁, hle₁⟩ := ihl hl h
      obtain ⟨fuel₂, mid₂, h₂, hsome₂, hle₂⟩ := ihr hr h₁
      refine ⟨fuel₂, mid₂, h₂, fun b hb => hsome₂ b ?_, ?_⟩
      · rw [HTree.symbols, List.mem_append] at hb
        rcases hb with (hb | hb) | hb
        · exact .inr (hsome₁ b (.inl hb))
        · exact .inl hb
        · exact .inr (hsome₁ b (.inr hb))
      · have hlen : (e.len + 1).toNat ≤ e.len.toNat + 1 := by rw [BitVec.toNat_add]; exact Nat.mod_le _ _
        have hwl := Nat.mul_le_mul_left (l.weight f) hlen
        have hwr := Nat.mul_le_mul_left (r.weight f) hlen
        simp only [HTree.weight, HTree.cost, Nat.add_mul, Nat.mul_add, Nat.mul_one] at hle₁ hle₂ hwl hwr ⊢
        omega

end Walk

theorem walkLoop_nil {nodeAt : Nat → Node} {fuel : Nat} {codes codes' : Vector (Option Code) 256}
    (h : walkLoop nodeAt fuel [] codes = some codes') : codes' = codes := by
  cases fuel <;> cases h <;> rfl

theorem codedBits_emptyCodes (bs : List Byte) : codedBits emptyCodes bs = 0 := by
  have hlen : ∀ b, codeLen emptyCodes b = 0 := fun b => by rw [codeLen, emptyCodes, atSym_replicate]; rfl
  rw [codedBits, funext hlen]; simp

theorem toNat_sub_one {n : BitVec 9} (h : n ≠ 0) : (n - 1).toNat = n.toNat - 1 := by
  have hpos : n.toNat ≠ 0 := fun h0 => h (BitVec.eq_of_toNat_eq h0)
  rw [BitVec.toNat_sub_of_le (by rw [BitVec.le_def]; exact Nat.one_le_iff_ne_zero.2 hpos)]; rfl

/-- Over the tree of a table that counts some bytes WALK gives each of them a code, and all the codes take at most 8 bits for
each byte counted. -/
theorem walkTable_of_holdsTreeOf {s : State} {f : Vector Word 256} {bs : List Byte} {codes : Vector (Option Code) 256}
    (htree : s.holdsTreeOf f) (hmax : freqTotal f < 2 ^ 32) (hbs : ∀ b, bs.count b ≤ (atSym f b).toNat)
    (h : walkTable s = some codes) :
    (∀ b ∈ bs, (atSym codes b).isSome = true) ∧ codedBits codes bs ≤ 8 * freqTotal f := by
  obtain ⟨hnode, -, hcnt⟩ := htree
  have hcntNat : s.nodeCnt.toNat = (buildTree f).nodes.length := by rw [hcnt, nodeCnt_buildTree]
  have hpresent : ∀ b ∈ bs, b ∈ presentSymbols f := fun b hb => mem_presentSymbols.2 fun h0 => by
    have hle := hbs b
    rw [h0] at hle
    exact absurd (List.count_pos_iff.2 hb) (Nat.not_lt.2 hle)
  by_cases hnil : leavesOf f = []
  · have hno : bs = [] := List.eq_nil_iff_forall_not_mem.2 fun b hb => by
      have hb' := hpresent b hb
      rw [List.map_eq_nil_iff.1 hnil] at hb'; cases hb'
    subst hno
    exact ⟨nofun, Nat.zero_le _⟩
  · obtain ⟨t, hroot, hweight, hcost, hcovers⟩ := buildTree_root hmax hnil
    have hat : ∀ m n, (buildTree f).nodes[m]? = some n → s.nodeAt m = n := fun m n hm => by
      rw [State.nodeAt, hnode, hm]; rfl
    have hpos := hroot.lt
    simp only [walkTable] at h
    split at h
    · next h0 =>
      have hzero : s.nodeCnt.toNat = 0 := by rw [h0]; rfl
      omega
    · next h0 =>
      split at h
      · next h1 =>
        have hone : (buildTree f).nodes.length = 1 := by rw [← hcntNat, h1]; rfl
        rw [hone] at hroot
        cases hroot with
        | @leaf _ b w hm =>
          rw [hat _ _ hm] at h
          cases h
          refine ⟨fun b hb => isSome_setSym _ (.inl (List.mem_singleton.1 (hcovers b (hpresent b hb)))), ?_⟩
          have hle := codedBits_setSym_le emptyCodes b ⟨1, 0⟩ bs
          have hcount := hbs b
          have hbit : (1 : BitVec 8).toNat = 1 := rfl
          rw [codedBits_emptyCodes, hbit] at hle
          rw [HTree.weight] at hweight
          exact hle.trans (by omega)
        | node hm => exact absurd ((buildTree_ok f).1.below 0 _ hm _ List.mem_cons_self) (Nat.not_lt_zero _)
      · rw [← hcntNat, ← toNat_sub_one h0] at hroot
        obtain ⟨fuel, mid, hend, hsome, hle⟩ := walkLoop_tree (e := ⟨s.nodeCnt - 1, 0, 0⟩) hat hbs hroot h
        rw [walkLoop_nil hend]
        refine ⟨fun b hb => hsome b (.inl (hcovers b (hpresent b hb))), ?_⟩
        rw [codedBits_emptyCodes, Nat.zero_add] at hle
        exact hle.trans (by simpa using hcost)

/-! ### PACK -/

theorem appendBits_fine {cap off : Nat} {bs : List Bool} {p : Packer} (h : p.taken + bs.length ≤ 8 * cap) :
    ∃ q, appendBits cap off bs p = .fine q := by
  induction bs generalizing p with
  | nil => exact ⟨p, rfl⟩
  | cons b bs ih =>
    have htaken := taken_appendBit cap off p b
    have hfine : ∃ q, appendBit cap off p b = .fine q := by
      simp only [appendBit]
      split
      · split
        · simp only [Packer.taken, List.length_cons] at h; omega
        · exact ⟨_, rfl⟩
      · exact ⟨_, rfl⟩
    obtain ⟨q, hq⟩ := hfine
    rw [hq] at htaken
    simp only [LoopEnd.state] at htaken
    simp only [appendBits, hq]
    exact ih (by rw [htaken]; simp only [List.length_cons] at h; omega)

/-- PACK's loop ends without error where every byte has a code and all the codes fit PAY (R159). -/
theorem packLoop_fine {cap : Nat} {code : Vector (Option Code) 256} {i : Nat} {bs : List Byte} {p : Packer}
    (hcode : ∀ b ∈ bs, (atSym code b).isSome = true) (h : p.taken + codedBits code bs ≤ 8 * cap) :
    ∃ q, packLoop cap code i bs p = .fine q := by
  induction bs generalizing i p with
  | nil =>
    simp only [packLoop, flushLast]
    split
    · split
      · simp only [Packer.taken] at h; omega
      · exact ⟨_, rfl⟩
    · exact ⟨_, rfl⟩
  | cons b bs ih =>
    obtain ⟨c, hc⟩ := Option.isSome_iff_exists.1 (hcode b List.mem_cons_self)
    rw [codedBits_cons, codeLen_of_some hc] at h
    obtain ⟨q, hq⟩ := appendBits_fine (off := i) (by omega : p.taken + c.bits.length ≤ 8 * cap)
    have htaken := taken_appendBits cap i c.bits p
    rw [hq] at htaken
    simp only [LoopEnd.state] at htaken
    simp only [packLoop, hc, hq]
    exact ih (fun b hb => hcode b (List.mem_cons_of_mem _ hb)) (by omega)

/-- BITLEN counts the bits of all the codes (R159 (a)). -/
theorem packLoop_bitLen {cap : Nat} {code : Vector (Option Code) 256} {i : Nat} {bs : List Byte} {p q : Packer}
    (h : packLoop cap code i bs p = .fine q) : q.bitLen = p.bitLen + codedBits code bs := by
  induction bs generalizing i p with
  | nil =>
    simp only [packLoop, flushLast] at h
    split at h
    · split at h <;> cases h; rfl
    · cases h; rfl
  | cons b bs ih =>
    simp only [packLoop] at h
    split at h
    · cases h
    · next c hc =>
      split at h
      · next r hr =>
        rw [ih h, appendBits_bitLen hr]
        rw [codedBits_cons, codeLen_of_some hc]; omega
      · cases h

end Sys2Proof.Machine
end

section
/-! PROOFS. The frame of COMPRESS and DECOMPRESS (R46, R100, R101): after COUNT, BUILD and WALK, of which COUNT alone can raise,
PACK does not fail, so BITLEN bounds what COMPRESS stores to PAY; in DECOMPRESS PARSE alone stores to PAY, and UNPACK alone to DST.
Settles O41. -/

namespace Sys2Proof.Machine

/-- `t` has the bytes of PAY that `s` has, from the end of its own payload on. -/
def State.samePastPayload (s t : State) : Prop := ∀ a, ceil8 t.bitLen.toNat ≤ a → t.payByte a = s.payByte a

theorem Writes.samePastPayload {s u t : State} {p : Phase} (h : Writes u t p) (hp : p ≠ .pack ∧ p ≠ .parse)
    (hu : s.samePastPayload u) : s.samePastPayload t := fun a ha =>
  (h.payByte hp a).trans (hu a ((h.payload hp).2 ▸ ha))

/-! ### COMPRESS -/

/-- FREQ is COUNT's table of SRC, which fits N_MAX. -/
def State.Counted (s : State) : Prop := s.srcLen.toNat ≤ s.cfg.nMax ∧ s.freq = countBytes s.srcBytes

/-- SRC is ready for PACK: it fits N_MAX, every byte has a code, and the codes take at most 8 bits for each byte. -/
structure State.Coded (s : State) : Prop where
  fits : s.srcLen.toNat ≤ s.cfg.nMax
  coded : ∀ b ∈ s.srcBytes, (atSym s.code b).isSome = true
  short : codedBits s.code s.srcBytes ≤ 8 * s.srcLen.toNat

theorem counted_of_countUnit {s t : State} (h : countUnit s = .done t) : t.Counted := by
  simp only [countUnit] at h
  split at h <;> cases h
  next hfits => exact ⟨not_lt.1 hfits, rfl⟩

theorem counted_of_buildUnit {s t : State} (hs : s.Counted) (h : buildUnit s = .done t) :
    t.Counted ∧ t.holdsTreeOf t.freq := by
  cases h; exact ⟨hs, rfl, rfl, rfl⟩

/-- The codes that WALK writes over BUILD's tree of COUNT's table make SRC ready for PACK. -/
theorem coded_of_walkUnit {s t : State} (hs : s.Counted) (htree : s.holdsTreeOf s.freq) (h : walkUnit s = .done t) :
    t.Coded := by
  obtain ⟨hfits, hfreq⟩ := hs
  have hmax := s.cfg.nMax_le
  have hlen : s.srcBytes.length = s.srcLen.toNat := length_srcSlice s 0 _
  have htotal := freqTotal_countBytes_le s.srcBytes
  simp only [walkUnit] at h
  split at h <;> cases h
  next codes hcodes =>
  obtain ⟨hcoded, hshort⟩ := walkTable_of_holdsTreeOf (hfreq ▸ htree) (by omega)
    (fun b => (atSym_countBytes (by omega) b).ge) hcodes
  have hbits : codedBits codes s.srcBytes ≤ 8 * s.srcLen.toNat := by omega
  exact ⟨hfits, hcoded, hbits⟩

/-- COMPRESS ends with COUNT's error, or it comes to PACK with SRC ready; either way with PAY as it was. -/
theorem runUnits_compress_next {s t : State} (h : runUnits (unitsOf .compress) s = .next t) :
    (∀ a, t.payByte a = s.payByte a) ∨
      ∃ u, u.Coded ∧ (∀ a, u.payByte a = s.payByte a) ∧ runUnits [(.pack, packUnit), (.frame, frameUnit)] u = .next t := by
  rcases runUnits_cons_next h with ⟨u, hcount, hrest⟩ | ⟨e, w, u, hcount, rfl⟩
  · have hcounted := counted_of_countUnit hcount
    have hpay₁ := ((unitOf_writes .count _).of_done hcount).payByte (by decide)
    rcases runUnits_cons_next hrest with ⟨v, hbuild, hrest⟩ | ⟨e, w, v, hbuild, -⟩
    · obtain ⟨hcounted, htree⟩ := counted_of_buildUnit (s := enterPhase .build u) hcounted hbuild
      have hpay₂ := ((unitOf_writes .build _).of_done hbuild).payByte (by decide)
      rcases runUnits_cons_next hrest with ⟨r, hwalk, hrest⟩ | ⟨e, w, r, hwalk, -⟩
      · have hcoded := coded_of_walkUnit (s := enterPhase .walk v) hcounted htree hwalk
        have hpay₃ := ((unitOf_writes .walk _).of_done hwalk).payByte (by decide)
        exact .inr ⟨r, hcoded, fun a => (hpay₃ a).trans ((hpay₂ a).trans (hpay₁ a)), hrest⟩
      · exact absurd (unitOf_raises (p := .walk) hwalk) (not_raisesIn (.inr rfl) e)
    · cases hbuild
  · have hpay : (unitOf .count (enterPhase .count s)).Holds fun t => ∀ a, t.payByte a = s.payByte a :=
      (unitOf_writes .count (enterPhase .count s)).imp fun t ht => ht.payByte (by decide)
    have hu := hpay.of_raised hcount
    exact .inl hu

/-- PACK succeeds where SRC is ready for it, and BITLEN is the number of bits of the codes (R159 (a)). -/
theorem packUnit_of_coded {s : State} (hs : s.Coded) :
    ∃ t, packUnit s = .done t ∧ t.bitLen.toNat = codedBits s.code s.srcBytes := by
  obtain ⟨hfits, hcoded, hshort⟩ := hs
  have hmax := s.cfg.nMax_le
  have hcap := nMax_le_bufBytes s
  have hstart : (Packer.start s.pay).taken = 0 := rfl
  obtain ⟨p, hp⟩ := packLoop_fine (cap := s.bufBytes) (i := 0) (p := Packer.start s.pay) hcoded (by omega)
  have hbits : p.bitLen = 0 + codedBits s.code s.srcBytes := packLoop_bitLen hp
  refine ⟨_, by rw [packUnit, if_neg (not_lt.2 hfits), packRun, hp], ?_⟩
  rw [← Nat.zero_add (codedBits _ _), ← hbits]
  exact Nat.mod_eq_of_lt (by omega)

/-- COMPRESS leaves the bytes of PAY from the payload's end on alone. -/
theorem runUnits_compress_payByte {s t : State} (h : runUnits (unitsOf .compress) s = .next t) :
    s.samePastPayload t := by
  rcases runUnits_compress_next h with hsame | ⟨u, hcoded, hpay, hrest⟩
  · exact fun a _ => hsame a
  · obtain ⟨v, hv, hbits⟩ := packUnit_of_coded (s := enterPhase .pack u) ⟨hcoded.fits, hcoded.coded, hcoded.short⟩
    rw [runUnits_done hv] at hrest
    have hstored := (packUnit_frame (enterPhase .pack u)).of_done hv
    have hle := (packStored_le (enterPhase .pack u)).trans (min_le_right _ _)
    have hbytes : s.samePastPayload v := fun a ha => by
      rw [hbits] at ha
      exact (hstored a (hle.trans ha)).trans (hpay a)
    exact runUnits_single_holds (P := s.samePastPayload) (fun _ _ h => h) (p := .frame)
      ((unitOf_writes .frame (enterPhase .frame v)).imp fun t ht => ht.samePastPayload (by decide) hbytes) hrest

/-- COMPRESS leaves the bytes of DST from DST_LEN on alone: FRAME alone stores to it, and last. -/
theorem runUnits_compress_dstByte {s t : State} (h : runUnits (unitsOf .compress) s = .next t) :
    ∀ a, t.dstLen.toNat ≤ a → t.dstByte a = s.dstByte a := by
  have hkeep : ∀ q ∈ [Phase.count, .build, .walk, .pack], ∀ u : State, (∀ a, u.dstByte a = s.dstByte a) →
      (unitOf q u).Holds fun t => ∀ a, t.dstByte a = s.dstByte a := fun q hq u hu => by
    have hne : q ≠ .frame ∧ q ≠ .unpack := by revert q; decide
    exact (unitOf_writes q u).imp fun t ht a => (ht.dstByte hne a).trans (hu a)
  rcases runUnits_concat_next (P := fun t => ∀ a, t.dstByte a = s.dstByte a) (fun _ _ h => h) (p := .frame) hkeep
    (fun _ => rfl) h with hsame | ⟨u, hu, hlast⟩
  · exact fun a _ => hsame a
  · exact runUnits_single_holds (P := fun t => ∀ a, t.dstLen.toNat ≤ a → t.dstByte a = s.dstByte a) (fun _ _ h => h)
      (p := .frame) ((frameUnit_frame _).imp fun t ht a ha => (ht a ha).trans (hu a)) hlast

/-! ### DECOMPRESS -/

/-- DECOMPRESS leaves the bytes of PAY from the payload's end on alone: PARSE alone stores to it, and first. -/
theorem runUnits_decompress_payByte {s t : State} (h : runUnits (unitsOf .decompress) s = .next t) :
    s.samePastPayload t := by
  have hparse : (unitOf .parse (enterPhase .parse s)).Holds s.samePastPayload := parseUnit_frame (enterPhase .parse s)
  rcases runUnits_cons_next h with ⟨v, hv, hrest⟩ | ⟨e, w, v, hv, rfl⟩
  · have hkeep : ∀ q ∈ [Phase.build, .walk], ∀ u, s.samePastPayload u → (unitOf q u).Holds s.samePastPayload :=
      fun q hq u hu => by
        have hne : q ≠ .pack ∧ q ≠ .parse := by revert q; decide
        exact (unitOf_writes q u).imp fun t ht => ht.samePastPayload hne hu
    rcases runUnits_concat_next (fun _ _ h => h) (p := .unpack) hkeep (hparse.of_done hv) hrest with ht | ⟨u, hu, hlast⟩
    · exact ht
    · exact runUnits_single_holds (P := s.samePastPayload) (fun _ _ h => h)
        ((unitOf_writes .unpack (enterPhase .unpack u)).imp fun t ht => ht.samePastPayload (by decide) hu) hlast
  · have hsame := hparse.of_raised hv
    exact hsame

/-- The bytes that UNPACK stores in DECOMPRESS can be read off the state that it leaves, with the DST it was given; it leaves the
bytes of DST after them alone. -/
theorem runUnits_decompress_dstByte {s t : State} (h : runUnits (unitsOf .decompress) s = .next t) :
    ∀ a, unpackStored { t with dst := s.dst } ≤ a → t.dstByte a = s.dstByte a := by
  have hkeep : ∀ q ∈ [Phase.parse, .build, .walk], ∀ u : State, u.dst = s.dst ∧ u.resetEra = s.resetEra →
      (unitOf q u).Holds fun t => t.dst = s.dst ∧ t.resetEra = s.resetEra := fun q hq u ⟨hdst, hera⟩ => by
    have hne : q ≠ .frame ∧ q ≠ .unpack := by revert q; decide
    exact (unitOf_writes q u).imp fun t ht => ⟨(ht.dst hne).trans hdst, ht.resetEra.trans hera⟩
  rcases runUnits_concat_next (P := fun t => t.dst = s.dst ∧ t.resetEra = s.resetEra) (fun _ _ h => h) (p := .unpack) hkeep
    ⟨rfl, rfl⟩ h with ⟨hdst, hera⟩ | ⟨u, ⟨hdst, hera⟩, hlast⟩
  · exact fun a _ => by rw [State.dstByte, hdst, hera]; rfl
  · have hbytes : ∀ a, unpackStored u ≤ a → t.dstByte a = u.dstByte a :=
      runUnits_single_holds (P := fun t => ∀ a, unpackStored u ≤ a → t.dstByte a = u.dstByte a) (fun _ _ h => h)
        (p := .unpack) (unpackUnit_frame (enterPhase .unpack u)) hlast
    have hstored : unpackStored { t with dst := u.dst } = unpackStored u :=
      runUnits_single_holds (P := fun t => unpackStored { t with dst := u.dst } = unpackStored u) (fun _ _ h => h)
        (p := .unpack) ((unitOf_writes .unpack (enterPhase .unpack u)).imp fun v hv =>
          (congrArg (fun v : State => unpackStored { v with dst := u.dst }) hv).trans rfl) hlast
    intro a ha
    rw [← hdst, hstored] at ha
    rw [hbytes a ha, State.dstByte, hdst, hera]; rfl

/-! ### The frame -/

/-- A state with the host's side of another is that one, but for what commands write. -/
theorem eq_of_hostSide {s t : State} (h : t.hostSide = s.hostSide) :
    t = { s with
      dst := t.dst, pay := t.pay, freq := t.freq, node := t.node, inq := t.inq, code := t.code, dstLen := t.dstLen
      bitLen := t.bitLen, nodeCnt := t.nodeCnt, status := t.status, errInfo := t.errInfo, hidden := t.hidden
      cmdEra := t.cmdEra } := by
  cases s; cases t
  simp only [State.hostSide, HostSide.mk.injEq] at h
  obtain ⟨rfl, rfl, rfl, rfl, rfl, rfl, rfl, rfl, rfl, rfl, rfl, rfl, rfl⟩ := h
  rfl

/-- Settles O41: no unit writes the host's side, and which bytes each of the two leaves alone. -/
theorem macroCommandsFrame : Obligations.MacroCommandsFrame := by
  refine ⟨fun i s t hi h => ?frame, fun s t h => ?compress, fun s t h => ?decompress⟩
  case frame =>
    have hw : isWorking i = true := by rcases hi with rfl | rfl <;> rfl
    have hside : t.hostSide = s.hostSide := by
      rcases exec_working_cases hw h with rfl | ⟨-, hrun⟩
      · rfl
      · exact runUnits_hostSide hrun
    have hframe := eq_of_hostSide hside
    exact ⟨hframe, fun a => (congrArg (State.srcByte · a) hframe).trans rfl⟩
  case compress =>
    rcases exec_working_cases rfl h with rfl | ⟨-, hrun⟩
    · exact ⟨fun _ _ => rfl, fun _ _ => rfl⟩
    · have hpay := runUnits_compress_payByte hrun
      have hdst := runUnits_compress_dstByte hrun
      exact ⟨hpay, hdst⟩
  case decompress =>
    rcases exec_working_cases rfl h with rfl | ⟨-, hrun⟩
    · exact ⟨fun _ _ => rfl, fun _ _ => rfl, fun _ _ => rfl⟩
    · have hpay := runUnits_decompress_payByte hrun
      have hdst := runUnits_decompress_dstByte hrun
      have hcfg : t.cfg = s.cfg := congrArg HostSide.cfg (runUnits_hostSide hrun)
      have hle := unpackStored_le { t with dst := s.dst }
      exact ⟨hpay, hdst, fun a ha => hdst a (hle.trans (hcfg ▸ ha))⟩

end Sys2Proof.Machine
end

section
/-! PROOFS. Command words (R60, R62, R63, R95): a word of 28 reserved bits 0 is its opcode, and the opcode map undoes the encoder.
Settles O1, O2 and O3. -/

namespace Sys2Proof

/-! ### The fields of a word -/

/-- The opcode is the word modulo 16. -/
theorem toNat_opcode (w : Word) : (w.extractLsb' 0 4).toNat = w.toNat % 16 := by
  rw [BitVec.extractLsb'_toNat, Nat.shiftRight_zero]

/-- The reserved bits are 0 in the words below 16 alone (R60). -/
theorem reservedBitsZero_iff {w : Word} : reservedBitsZero w = true ↔ w.toNat / 16 = 0 := by
  have hlt : w.toNat / 16 < 2 ^ 28 := by have := w.isLt; omega
  have hfield : (w.extractLsb' 4 28).toNat = w.toNat / 16 := by
    rw [BitVec.extractLsb'_toNat, Nat.shiftRight_eq_div_pow, Nat.mod_eq_of_lt hlt]
  rw [reservedBitsZero, beq_iff_eq, ← BitVec.toNat_inj, hfield]; rfl

/-! ### The opcode map -/

/-- The opcode map undoes the encoder, and maps no other opcode to a command (R62). -/
theorem opcodeMap_eq_some_iff (op : BitVec 4) (i : Instr) : opcodeMap op = some i ↔ op.toNat = (encode i).toNat := by
  cases i <;> revert op <;> decide

/-- The opcodes without a command are 0xB to 0xE (R62). -/
theorem opcodeMap_eq_none_iff (op : BitVec 4) : opcodeMap op = none ↔ 0xB ≤ op.toNat ∧ op.toNat ≤ 0xE := by
  revert op; decide

theorem encode_lt (i : Instr) : (encode i).toNat < 16 := by cases i <;> decide

/-! ### The decoder -/

/-- A word is a command iff its reserved bits are 0 and its opcode is the command's (R60). -/
theorem decode_eq_instr_iff {w : Word} {i : Instr} :
    decode w = .instr i ↔ w.toNat / 16 = 0 ∧ opcodeMap (w.extractLsb' 0 4) = some i := by
  rw [← reservedBitsZero_iff, decode]
  split
  · next h => cases opcodeMap (w.extractLsb' 0 4) <;> simp [h]
  · next h => simp [h]

/-- A word is no command iff a reserved bit is 1 or its opcode is reserved (R63). -/
theorem decode_ne_instr_iff {w : Word} :
    (∀ i, decode w ≠ .instr i) ↔ w.toNat / 16 ≠ 0 ∨ (0xB ≤ w.toNat % 16 ∧ w.toNat % 16 ≤ 0xE) := by
  rw [← toNat_opcode, ← opcodeMap_eq_none_iff]
  simp only [ne_eq, decode_eq_instr_iff, not_and, ← Option.eq_none_iff_forall_ne_some, forall_comm (α := Instr)]
  exact imp_iff_not_or

/-- Settles O1: each word of R62's map is below 16, and its opcode is the command's. -/
theorem commandWordsDecode : Obligations.CommandWordsDecode := by
  unfold Obligations.CommandWordsDecode; decide

/-- Settles O2: a word with no reserved bit is its opcode, and the opcode map undoes the encoder. -/
theorem wordIsCommandIffEncoded : Obligations.WordIsCommandIffEncoded := by
  intro w i
  have hlt := encode_lt i
  rw [decode_eq_instr_iff, opcodeMap_eq_some_iff, toNat_opcode, ← BitVec.toNat_inj]
  omega

namespace Machine

/-- A write of a word that is no command (R95, R91). -/
theorem writeCmd_of_illegal {w : Word} (h : ∀ i, decode w ≠ .instr i) (s : State) :
    writeCmd w s = .next (writeIllegal w s) := by
  cases hd : decode w with
  | instr i => exact absurd hd (h i)
  | rejected r => rw [writeCmd, hd]

/-- Settles O3: which words are no command, and the error entry in phase 0 when the core would accept one. -/
theorem illegalWordLatchesIllegalCommand : Obligations.IllegalWordLatchesIllegalCommand := by
  intro w s
  refine ⟨decode_ne_instr_iff, fun hill => ⟨fun hr => ?_, fun hr => ?_⟩⟩
  · rw [writeCmd_of_illegal hill, writeIllegal, hr]; rfl
  · rw [writeCmd_of_illegal hill, writeIllegal, hr]; rfl

end Machine
end Sys2Proof
end

section
/-! PROOFS. The codes of a walked tree are its paths (R78, R141, R144): the path of each entry on the walker's stack leads to its
node, so a code leads to its symbol's leaf, where no path goes on. Settles O18. -/

namespace Sys2Proof.Machine

/-! ### The bits of a path -/

/-- The path bits of a stack entry: its `len` and `val` as a code (R141). -/
def WalkEntry.bits (e : WalkEntry) : List Bool := Code.bits ⟨e.len, e.val⟩

/-- One step further on a path adds one bit at its end. -/
theorem Code.bits_concat {c d : Code} {b : Bool} (hshort : c.len.toNat < 255) (hlen : d.len.toNat = c.len.toNat + 1)
    (hval : d.val.toNat = (2 * c.val.toNat + b.toNat) % 2 ^ 255) : d.bits = c.bits ++ [b] := by
  have hbit : ∀ i < 255, d.val.getLsbD i = (2 * c.val.toNat + b.toNat).testBit i := fun i hi => by
    rw [BitVec.getLsbD, hval, Nat.testBit_mod_two_pow, decide_eq_true hi, Bool.true_and]
  have hlast : d.val.getLsbD 0 = b := by
    rw [hbit 0 (by decide), Nat.testBit_zero]; cases b <;> simp
  have hearlier : ∀ t < c.len.toNat, d.val.getLsbD (c.len.toNat - t) = c.val.getLsbD (c.len.toNat - 1 - t) := fun t ht => by
    rw [show c.len.toNat - t = c.len.toNat - 1 - t + 1 by omega, hbit _ (by omega), Nat.testBit_succ,
      show (2 * c.val.toNat + b.toNat) / 2 = c.val.toNat by have := b.toNat_lt; omega, BitVec.getLsbD]
  rw [Code.bits, Code.bits, hlen, List.range_succ, List.map_append]
  simpa [← hlast] using hearlier

/-- The children's entries have their parent's path and one step more, where that path is not yet 255 steps long. -/
theorem WalkEntry.bits_child {e : WalkEntry} (child : BitVec 9) (h : e.len.toNat < 255) :
    WalkEntry.bits ⟨child, e.len + 1, 2 * e.val⟩ = e.bits ++ [false] ∧
      WalkEntry.bits ⟨child, e.len + 1, 2 * e.val + 1⟩ = e.bits ++ [true] := by
  have hlen : (e.len + 1).toNat = e.len.toNat + 1 := by
    rw [BitVec.toNat_add]; exact Nat.mod_eq_of_lt (by simp; omega)
  exact ⟨Code.bits_concat h hlen (by simp), Code.bits_concat h hlen (by simp)⟩

/-! ### Paths in a tree -/

/-- A path of two parts leads where its second part leads from the end of the first. -/
theorem descend_append (nodeAt : Nat → Node) (m : Nat) (bs cs : List Bool) :
    descend nodeAt m (bs ++ cs) = (descend nodeAt m bs).bind fun n => descend nodeAt n cs := by
  induction bs generalizing m with
  | nil => rfl
  | cons b bs ih =>
    rw [List.cons_append, descend, descend]
    cases nodeAt m with
    | leaf => rfl
    | internal _ low high => exact ih _

theorem descend_concat {nodeAt : Nat → Node} {m n : Nat} {bs : List Bool} {w : Word} {low high : BitVec 9}
    (h : descend nodeAt m bs = some n) (hn : nodeAt n = .internal w low high) (b : Bool) :
    descend nodeAt m (bs ++ [b]) = some (if b then high else low).toNat := by
  rw [descend_append, h, Option.bind_some, descend, hn]; rfl

/-- No path goes on past a leaf. -/
theorem descend_of_leaf {nodeAt : Nat → Node} {m n : Nat} {b : Byte} {w : Word} {bs : List Bool} (hm : nodeAt m = .leaf b w)
    (h : descend nodeAt m bs = some n) : bs = [] := by
  cases bs with
  | nil => rfl
  | cons c bs => rw [descend, hm] at h; cases h

/-- `bits` is the path from entry `root` to a leaf of `b`. -/
def LeadsTo (nodeAt : Nat → Node) (root : Nat) (bits : List Bool) (b : Byte) : Prop :=
  ∃ m f, descend nodeAt root bits = some m ∧ nodeAt m = .leaf b f

/-- No path to a leaf begins the path to another symbol's leaf. -/
theorem LeadsTo.eq_of_prefix {nodeAt : Nat → Node} {root : Nat} {bs cs : List Bool} {a b : Byte}
    (ha : LeadsTo nodeAt root bs a) (hb : LeadsTo nodeAt root cs b) (h : bs <+: cs) : a = b := by
  obtain ⟨m, f, hm, hleaf⟩ := ha
  obtain ⟨n, g, hn, hleaf'⟩ := hb
  obtain ⟨rest, rfl⟩ := h
  rw [descend_append, hm, Option.bind_some] at hn
  rw [descend_of_leaf hleaf hn, descend, Option.some.injEq] at hn
  rw [← hn, hleaf, Node.leaf.injEq] at hleaf'
  exact hleaf'.1

/-! ### The walk -/

/-- Over a tree with `k` leaves each code that the walk writes leads to its symbol's leaf. -/
theorem walkLoop_leadsTo {nodeAt : Nat → Node} {k root : Nat} (hk : k ≤ 256)
    (hleaf : ∀ m ≤ 2 * k - 2, (nodeAt m).isInternal = true ↔ k ≤ m)
    (hbelow : ∀ m ≤ 2 * k - 2, ∀ c ∈ (nodeAt m).children, c < m) (fuel : Nat) {stack : List WalkEntry}
    {codes codes' : Vector (Option Code) 256}
    (hstack : ∀ e ∈ stack, PathOk k e ∧ descend nodeAt root e.bits = some e.node.toNat)
    (hcodes : ∀ b c, atSym codes b = some c → LeadsTo nodeAt root c.bits b)
    (h : walkLoop nodeAt fuel stack codes = some codes') :
    ∀ b c, atSym codes' b = some c → LeadsTo nodeAt root c.bits b := by
  induction fuel generalizing stack codes with
  | zero =>
    cases stack with
    | nil => cases h; exact hcodes
    | cons e stack => cases h
  | succ fuel ih =>
    cases stack with
    | nil => cases h; exact hcodes
    | cons e stack =>
      obtain ⟨he, hpath⟩ := hstack e List.mem_cons_self
      have hrest := fun e h => hstack e (List.mem_cons_of_mem _ h)
      have hm : e.node.toNat ≤ 2 * k - 2 := (Nat.le_add_right _ _).trans he.down
      simp only [walkLoop] at h
      split at h
      · next sym f hn =>
        refine ih hrest (fun b c hc => ?_) h
        by_cases hb : b = sym
        · subst hb
          rw [atSym_setSym_same, Option.some.injEq] at hc
          exact hc ▸ ⟨e.node.toNat, f, hpath, hn⟩
        · rw [atSym_setSym_ne _ _ hb] at hc; exact hcodes b c hc
      · next f low high hn =>
        have hint : k ≤ e.node.toNat := (hleaf _ hm).1 (by rw [hn]; rfl)
        have hchild : ∀ c ∈ [low.toNat, high.toNat], c < e.node.toNat := fun c hc => hbelow _ hm c (by rwa [hn])
        have hdown := he.down
        refine ih (fun e' he' => ?_) hcodes h
        rcases List.mem_cons.1 he' with rfl | he'
        · refine ⟨(he.step hk hint (hchild _ (by simp))).1, ?_⟩
          rw [(WalkEntry.bits_child low (by omega)).1, descend_concat hpath hn]; rfl
        · rcases List.mem_cons.1 he' with rfl | he'
          · refine ⟨(he.step hk hint (hchild _ (by simp))).2, ?_⟩
            rw [(WalkEntry.bits_child high (by omega)).2, descend_concat hpath hn]; rfl
          · exact hrest e' he'

theorem two_le_toNat {n : BitVec 9} (h0 : n ≠ 0) (h1 : n ≠ 1) : 2 ≤ n.toNat := by
  have hzero : n.toNat ≠ 0 := fun h => h0 (BitVec.eq_of_toNat_eq h)
  have hone : n.toNat ≠ 1 := fun h => h1 (BitVec.eq_of_toNat_eq h)
  omega

/-- Each code that WALK writes over a tree is its symbol's code in the tree (R142, R144 (b)). -/
theorem treeCode_of_walkTable {s : State} {codes : Vector (Option Code) 256} (hs : s.treeOk) (h : walkTable s = some codes)
    {b : Byte} {c : Code} (hc : atSym codes b = some c) : s.treeCode b c.bits := by
  obtain ⟨hcnt, ⟨k, ht⟩, -⟩ := hs
  have hsize := ht.size
  simp only [walkTable] at h
  split at h
  · cases h; rw [emptyCodes, atSym_replicate] at hc; cases hc
  · next h0 =>
    split at h
    · next h1 =>
      cases h
      by_cases hb : b = (s.nodeAt 0).sym
      · rw [hb, atSym_setSym_same, Option.some.injEq] at hc
        rw [State.treeCode, if_pos h1, ← hc]
        exact ⟨rfl, hb.symm⟩
      · rw [atSym_setSym_ne _ _ hb, emptyCodes, atSym_replicate] at hc; cases hc
    · next h1 =>
      have htwo := two_le_toNat h0 h1
      have hroot := toNat_sub_one h0
      rw [State.treeCode, if_neg h1]
      refine walkLoop_leadsTo ht.fits (fun m hm => ht.isInternal_iff (nodeAt_eq (by omega)))
        (fun m hm => ht.below m _ (nodeAt_eq (by omega))) _ (fun e he => ?_)
        (fun b c hc => by rw [emptyCodes, atSym_replicate] at hc; cases hc) h b c hc
      rw [List.mem_singleton.1 he]
      exact ⟨
        { down := (by omega : (s.nodeCnt - 1).toNat + 0 ≤ 2 * k - 2)
          short := (by omega : 0 < k)
          value := (by decide : 0 < 2 ^ 0)
          nonempty := fun _ => (by omega : k ≤ (s.nodeCnt - 1).toNat) }, rfl⟩

/-- The code of a symbol in a tree does not begin another symbol's (R78). -/
theorem State.treeCode_eq_of_prefix {s : State} {a b : Byte} {bs cs : List Bool} (ha : s.treeCode a bs) (hb : s.treeCode b cs)
    (h : bs <+: cs) : a = b := by
  unfold State.treeCode at ha hb
  split at ha
  · next h1 => rw [if_pos h1] at hb; exact ha.2.symm.trans hb.2
  · next h1 => rw [if_neg h1] at hb; exact LeadsTo.eq_of_prefix ha hb h

theorem prefixFree_walkTable {s : State} {codes : Vector (Option Code) 256} (hs : s.treeOk) (h : walkTable s = some codes) :
    prefixFree codes := fun _ _ _ _ hne ha hb hprefix =>
  hne (State.treeCode_eq_of_prefix (treeCode_of_walkTable hs h ha) (treeCode_of_walkTable hs h hb) hprefix)

/-- Settles O18: the codes are the tree's, and a path that ends in a leaf does not go on to another. -/
theorem walkedCodesArePrefixFree : Obligations.WalkedCodesArePrefixFree := by
  intro s t hr hs h
  rw [exec_of_ready rfl hr] at h
  refine runUnits_single_holds (P := fun t => prefixFree t.code) (fun _ _ h => h) (p := .walk) ?_ h
  have htree : (enterPhase .walk (accepted .walk s)).treeOk := hs
  simp only [unitOf, walkUnit]
  split
  · next codes hcodes => exact prefixFree_walkTable htree hcodes
  · trivial

end Sys2Proof.Machine
end

section
/-! PROOFS. Big-endian numbers (R44) and the layout of a container (R70), read from a run of bytes of any memory. For O26, O36
and O38. -/

namespace Sys2Proof.Machine

/-! ### Big-endian numbers -/

theorem beNat_concat (bs : List Byte) (b : Byte) : beNat (bs ++ [b]) = beNat bs * 256 + b.toNat := by
  simp [beNat]

/-- The last of the bytes is the lowest. -/
theorem beBytes_succ (n v : Nat) : beBytes (n + 1) v = beBytes n (v / 256) ++ [BitVec.ofNat 8 v] := by
  have hhigh : ∀ j ∈ List.range n, BitVec.ofNat 8 (v / 256 ^ (n + 1 - 1 - j)) =
      BitVec.ofNat 8 (v / 256 / 256 ^ (n - 1 - j)) := fun j hj => by
    rw [List.mem_range] at hj
    rw [Nat.div_div_eq_div_mul, ← Nat.pow_succ', show n + 1 - 1 - j = (n - 1 - j).succ by omega]
  rw [beBytes, beBytes, List.range_succ, List.map_append, List.map_congr_left hhigh]
  simp

/-- Big-endian bytes hold the number modulo 256^n (R44). -/
theorem beNat_beBytes (n v : Nat) : beNat (beBytes n v) = v % 256 ^ n := by
  induction n generalizing v with
  | zero => rw [Nat.pow_zero, Nat.mod_one]; rfl
  | succ n ih =>
    have hsplit : v % 256 ^ (n + 1) = v % 256 + 256 * (v / 256 % 256 ^ n) := by rw [Nat.pow_succ', Nat.mod_mul]
    rw [beBytes_succ, beNat_concat, ih, BitVec.toNat_ofNat, hsplit]; omega

theorem beNat_beBytes_of_lt {n v : Nat} (h : v < 256 ^ n) : beNat (beBytes n v) = v := by
  rw [beNat_beBytes, Nat.mod_eq_of_lt h]

/-! ### Runs of bytes -/

/-- The bytes `g a, g (a + 1), …`, `n` of them. -/
def bytesFrom (g : Nat → Byte) (a n : Nat) : List Byte := (List.range n).map fun j => g (a + j)

@[simp] theorem length_bytesFrom (g : Nat → Byte) (a n : Nat) : (bytesFrom g a n).length = n := by simp [bytesFrom]

theorem bytesFrom_add (g : Nat → Byte) (a m n : Nat) : bytesFrom g a (m + n) = bytesFrom g a m ++ bytesFrom g (a + m) n := by
  simp [bytesFrom, List.range_add, Nat.add_assoc, Function.comp_def]

/-- `vs` stands at `g a, g (a + 1), …`. -/
def BytesAt (g : Nat → Byte) (a : Nat) (vs : List Byte) : Prop := bytesFrom g a vs.length = vs

section BytesAt
variable {g : Nat → Byte} {a : Nat}

theorem bytesAt_append {us vs : List Byte} :
    BytesAt g a (us ++ vs) ↔ BytesAt g a us ∧ BytesAt g (a + us.length) vs := by
  rw [BytesAt, List.length_append, bytesFrom_add]
  exact ⟨fun h => List.append_inj h (length_bytesFrom g a _), fun ⟨hu, hv⟩ => congrArg₂ (· ++ ·) hu hv⟩

theorem bytesAt_singleton {v : Byte} : BytesAt g a [v] ↔ g a = v := by simp [BytesAt, bytesFrom]

theorem BytesAt.getElem {vs : List Byte} (h : BytesAt g a vs) {j : Nat} (hj : j < vs.length) : g (a + j) = vs[j] := by
  have hget : (bytesFrom g a vs.length)[j]? = vs[j]? := by rw [h]
  simpa [bytesFrom, hj] using hget

/-- A number stored in `n` bytes is read back if it fits them. -/
theorem BytesAt.beNat {n v : Nat} (h : BytesAt g a (beBytes n v)) (hv : v < 256 ^ n) : beNat (bytesFrom g a n) = v := by
  rw [BytesAt, length_beBytes] at h
  rw [h, beNat_beBytes_of_lt hv]

/-- Of records with one width each stands at its multiple of the width. -/
theorem BytesAt.flatMap {α : Type} {h : α → List Byte} {w : Nat} (hw : ∀ x, (h x).length = w) {xs : List α}
    (hxs : BytesAt g a (xs.flatMap h)) {i : Nat} {x : α} (hi : xs[i]? = some x) : BytesAt g (a + w * i) (h x) := by
  induction xs generalizing a i with
  | nil => cases hi
  | cons y xs ih =>
    rw [List.flatMap_cons, bytesAt_append, hw] at hxs
    obtain ⟨hy, hxs⟩ := hxs
    cases i with
    | zero => rw [List.getElem?_cons_zero, Option.some.injEq] at hi; exact hi ▸ hy
    | succ i =>
      rw [List.getElem?_cons_succ] at hi
      rw [Nat.mul_succ, Nat.add_comm (w * i), ← Nat.add_assoc]
      exact ih hxs hi

end BytesAt

/-- A run of bytes that a memory was given stands there, whatever else it reads. -/
theorem bytesAt_storeList (m : Memory) (a : Nat) (vs : List Byte) (dflt : Nat → Byte) :
    BytesAt (fun i => ((m.storeList a vs).lookup i).getD (dflt i)) a vs := by
  refine List.ext_getElem (length_bytesFrom _ _ _) fun j _ hj => ?_
  simp [bytesFrom, Memory.lookup_storeList, hj]

/-! ### The header -/

/-- The header of a container of the table `f` and `bits` bits, read from `g` at 0 (R70). -/
structure HeaderAt (g : Nat → Byte) (f : Vector Word 256) (bits : Nat) : Prop where
  count : beNat (bytesFrom g 0 2) = (presentSymbols f).length
  entry : ∀ i b, (presentSymbols f)[i]? = some b →
    g (2 + 5 * i) = b ∧ beNat (bytesFrom g (3 + 5 * i) 4) = (atSym f b).toNat
  bitLength : beNat (bytesFrom g (2 + 5 * (presentSymbols f).length) 4) = bits

theorem length_presentSymbols_le (f : Vector Word 256) : (presentSymbols f).length ≤ 256 :=
  length_leavesOf f ▸ length_leavesOf_le f

/-- The header's bytes hold its numbers: each fits its bytes. -/
theorem headerAt_of_bytesAt {g : Nat → Byte} {f : Vector Word 256} {bits : Nat} (h : BytesAt g 0 (headerBytes f bits))
    (hbits : bits < 2 ^ 32) : HeaderAt g f bits := by
  have hk := length_presentSymbols_le f
  have hwidth : ∀ b, (entryBytes f b).length = 5 := fun b => by rw [entryBytes, List.length_cons, length_beBytes]
  have hlen : ((presentSymbols f).flatMap (entryBytes f)).length = 5 * (presentSymbols f).length := by
    simp [List.length_flatMap, hwidth, Nat.mul_comm]
  rw [headerBytes, bytesAt_append, bytesAt_append] at h
  obtain ⟨⟨hcount, hentries⟩, hbitLength⟩ := h
  rw [length_beBytes] at hentries
  rw [List.length_append, length_beBytes, hlen, Nat.zero_add] at hbitLength
  refine ⟨hcount.beNat (by omega), fun i b hi => ?_, hbitLength.beNat (by omega)⟩
  have hentry := hentries.flatMap hwidth hi
  rw [entryBytes, ← List.singleton_append, bytesAt_append, bytesAt_singleton] at hentry
  obtain ⟨hsym, hfreq⟩ := hentry
  rw [List.length_singleton, show 0 + 2 + 5 * i + 1 = 3 + 5 * i by omega] at hfreq
  rw [Nat.zero_add] at hsym
  exact ⟨hsym, hfreq.beNat (by have := (atSym f b).isLt; omega)⟩

/-! ### FRAME -/

/-- What FRAME leaves where the container fits DST. -/
def State.framed (s : State) : State :=
  { s with
    dst := Memory.storeList s.dst 0 s.frameBytes
    dstLen := BitVec.ofNat 32 s.frameLen
    hidden := { s.hidden with frmIdx := BitVec.ofNat 32 s.frameLen } }

theorem frameUnit_eq_framed {s : State} (h : s.frameLen ≤ s.bufBytes) : frameUnit s = .done s.framed := if_neg (not_lt.2 h)

/-- DST holds a container of the state's own FREQ, BITLEN and PAY (R70, R181, R183): the header, then the payload. -/
structure State.HoldsFrame (s : State) : Prop where
  length : s.dstLen.toNat = 6 + 5 * s.kView + ceil8 s.bitLen.toNat
  header : HeaderAt s.dstByte s.freq s.bitLen.toNat
  payload : ∀ j < ceil8 s.bitLen.toNat, s.dstByte (6 + 5 * s.kView + j) = s.payByte j

theorem holdsFrame_framed {s : State} (h : s.frameLen ≤ s.bufBytes) : s.framed.HoldsFrame := by
  have hmax := bufBytes_le s
  have hbytes := bytesAt_storeList s.dst 0 s.frameBytes (Config.powerOnByte s.resetEra .dst)
  rw [State.frameBytes, bytesAt_append, length_headerBytes, Nat.zero_add] at hbytes
  obtain ⟨hheader, hpay⟩ := hbytes
  have hlen : s.payBytes.length = ceil8 s.bitLen.toNat := by simp [State.payBytes]
  refine ⟨Nat.mod_eq_of_lt (by omega), headerAt_of_bytesAt hheader s.bitLen.isLt, fun j hj => ?_⟩
  have hbyte : s.payBytes[j]'(hlen ▸ hj) = s.payByte j := by simp [State.payBytes]
  exact (hpay.getElem (hlen ▸ hj)).trans hbyte

end Sys2Proof.Machine
end

section
/-! PROOFS. A command whose units all end without error (R93): it leaves what they leave, with STATUS = 0x00000002.
Settles O26. -/

namespace Sys2Proof.Machine

/-- The units of the phases `ps`, run from `s`, all end without error, in `t`. -/
def Completes : List Phase → State → State → Prop
  | [], s, t => t = s
  | p :: ps, s, t => ∃ u, unitOf p (enterPhase p s) = .done u ∧ Completes ps u t

namespace Completes
variable {ps : List Phase} {s t : State}

theorem runUnits (h : Completes ps s t) :
    runUnits (ps.map fun p => (p, unitOf p)) s = .next (releaseHidden (complete t)) := by
  induction ps generalizing s with
  | nil => rw [show t = s from h]; rfl
  | cons p ps ih =>
    obtain ⟨u, hu, hrest⟩ := h
    rw [List.map_cons, runUnits_done hu, ih hrest]

/-- The units leave ERR as it was (R93). -/
theorem err (h : Completes ps s t) : t.status.err = s.status.err := by
  induction ps generalizing s with
  | nil => rw [show t = s from h]
  | cons p ps ih =>
    obtain ⟨u, hu, hrest⟩ := h
    rw [ih hrest, ((unitOf_writes p _).of_done hu).status.1]; rfl

end Completes

/-- A working command whose units all end without error finishes (R93). -/
theorem exec_of_completes {i : Instr} {s t : State} (hi : isWorking i = true) (hs : s.statusOk = true)
    (hr : s.ready = true) (h : Completes (phasesOf i) (accepted i s) t) :
    exec i s = .next (releaseHidden (complete t)) ∧ (releaseHidden (complete t)).status = Status.finished ∧
      (releaseHidden (complete t)).errInfo = 0 := by
  have hrun : runUnits (unitsOf i) (accepted i s) = .next (releaseHidden (complete t)) := h.runUnits
  refine ⟨by rw [exec_of_ready hi hr, hrun], ?_⟩
  rcases runUnits_accepted_status hs hr hrun with hfin | ⟨p, -, e, ⟨hne, -⟩, hfail⟩
  · exact hfin
  · have herr : t.status.err = .noError := h.err.trans (ready_iff.1 hr).2
    have he : t.status.err = e := congrArg Status.err hfail
    exact absurd (he.symm.trans herr) hne

/-- Settles O26: FRAME's one unit completes, and DST holds the container. -/
theorem frameWritesTheContainer : Obligations.FrameWritesTheContainer := by
  intro s hs hr hfit
  have hlen : (enterPhase .frame (accepted .frame s)).frameLen ≤ s.bufBytes := hfit
  obtain ⟨hexec, hst, hinfo⟩ := exec_of_completes (i := .frame) rfl hs hr ⟨_, frameUnit_eq_framed hlen, rfl⟩
  obtain ⟨hdstLen, ⟨hcount, hentry, hbits⟩, hpay⟩ := holdsFrame_framed hlen
  exact ⟨_, hexec, hst, hinfo, hdstLen, hcount, hentry, hbits, hpay⟩

end Sys2Proof.Machine
end

section
/-! PROOFS. The stream bits of the packer (R43, R74, R151, R154 to R156): each appended bit is the next one, so the payload is the
concatenated codes and the pad bits. For O36. -/

namespace Sys2Proof.Machine

/-! ### Bits of bytes -/

/-- The `n` low bits of a byte, the highest of them first. -/
def lowBits (b : Byte) (n : Nat) : List Bool := (List.range n).map fun t => b.getLsbD (n - 1 - t)

@[simp] theorem length_lowBits (b : Byte) (n : Nat) : (lowBits b n).length = n := by simp [lowBits]

@[simp] theorem lowBits_zero (b : Byte) : lowBits b 0 = [] := rfl

/-- The stream bits of the first `n` bytes (R43). -/
def bitsOfBytes (g : Nat → Byte) (n : Nat) : List Bool := (List.range n).flatMap fun i => lowBits (g i) 8

theorem bitsOfBytes_succ (g : Nat → Byte) (n : Nat) : bitsOfBytes g (n + 1) = bitsOfBytes g n ++ lowBits (g n) 8 := by
  simp [bitsOfBytes, List.range_succ]

theorem length_bitsOfBytes (g : Nat → Byte) (n : Nat) : (bitsOfBytes g n).length = 8 * n := by
  induction n with
  | zero => rfl
  | succ n ih => rw [bitsOfBytes_succ, List.length_append, ih, length_lowBits]; rfl

/-- Stream bit j is bit `7 − (j mod 8)` of byte `j div 8` (R43). -/
theorem bitsOfBytes_eq_map (g : Nat → Byte) (n : Nat) :
    bitsOfBytes g n = (List.range (8 * n)).map fun j => (g (j / 8)).getLsbD (7 - j % 8) := by
  induction n with
  | zero => rfl
  | succ n ih =>
    have hlast : ∀ t ∈ List.range 8, (g n).getLsbD (8 - 1 - t) = (g ((8 * n + t) / 8)).getLsbD (7 - (8 * n + t) % 8) :=
      fun t ht => by
        rw [List.mem_range] at ht
        rw [show (8 * n + t) / 8 = n by omega, show (8 * n + t) % 8 = t by omega]
    rw [bitsOfBytes_succ, ih, Nat.mul_succ, List.range_add, List.map_append, List.map_map, lowBits,
      List.map_congr_left hlast]; rfl

/-- The first BITLEN stream bits are those of the payload's bytes, without the pad bits (R75). -/
theorem payBits_eq_take (s : State) :
    s.payBits = (bitsOfBytes s.payByte (ceil8 s.bitLen.toNat)).take s.bitLen.toNat := by
  rw [bitsOfBytes_eq_map, ← List.map_take, List.take_range, Nat.min_eq_left (by simp only [ceil8]; omega)]; rfl

/-- The bit shifter puts the new bit below the collected ones (R154). -/
theorem lowBits_shiftIn (acc : Byte) (b : Bool) {n : Nat} (hn : n < 8) :
    lowBits (shiftIn acc b) (n + 1) = lowBits acc n ++ [b] := by
  have hlast : (shiftIn acc b).getLsbD 0 = b := by simp [shiftIn]
  have hearlier : ∀ t ∈ List.range n, (shiftIn acc b).getLsbD (n + 1 - 1 - t) = acc.getLsbD (n - 1 - t) := fun t ht => by
    rw [List.mem_range] at ht
    have hlt : n - 1 - t + 1 < 8 := by omega
    rw [show n + 1 - 1 - t = n - 1 - t + 1 by omega]
    simp [shiftIn, hlt, BitVec.getLsbD_eq_getElem (Nat.lt_of_succ_lt hlt)]
  rw [lowBits, List.range_succ, List.map_append, List.map_congr_left hearlier]
  simpa [lowBits] using hlast

/-- Collected bits moved to the high-order end of a byte are its first bits, and the pad bits below them are 0 (R156). -/
theorem lowBits_shiftLeft (acc : Byte) {n : Nat} (hn : n ≤ 8) :
    lowBits (acc <<< (8 - n)) 8 = lowBits acc n ++ List.replicate (8 - n) false := by
  refine List.ext_getElem (by simp; omega) fun t ht _ => ?_
  simp only [length_lowBits] at ht
  by_cases htn : t < n
  · rw [List.getElem_append_left (by simpa using htn)]
    have hmoved : 7 - t - (8 - n) = n - 1 - t := by omega
    have hlt : 7 - t < 8 := by omega
    have hge : 8 - n ≤ 7 - t := by omega
    simp [lowBits, hmoved, hlt, hge]
  · rw [List.getElem_append_right (by simpa using htn)]
    have hlt : 7 - t < 8 - n := by omega
    simp [lowBits, hlt]

/-! ### The packer's stream -/

section Stream
variable (dflt : Nat → Byte)

/-- Byte `i` of a memory whose unwritten bytes read as `dflt`. -/
def Memory.byteAt (m : Memory) (i : Nat) : Byte := (m.lookup i).getD (dflt i)

/-- The bits the packer has taken in: those of the stored bytes, then the collected ones (R151). -/
def Packer.stream (p : Packer) : List Bool := bitsOfBytes (p.pay.byteAt dflt) p.pkP ++ lowBits p.acc p.accCnt

variable {dflt}

/-- A byte stored after the first `n` adds its bits to theirs. -/
theorem bitsOfBytes_store (m : Memory) (n : Nat) (v : Byte) :
    bitsOfBytes ((m.store n v).byteAt dflt) (n + 1) = bitsOfBytes (m.byteAt dflt) n ++ lowBits v 8 := by
  have hlast : (m.store n v).byteAt dflt n = v := by rw [Memory.byteAt, Memory.lookup_store_same]; rfl
  have hold : ∀ i ∈ List.range n, lowBits ((m.store n v).byteAt dflt i) 8 = lowBits (m.byteAt dflt i) 8 := fun i hi => by
    rw [Memory.byteAt, Memory.lookup_store_ne m v (List.mem_range.1 hi).ne]; rfl
  rw [bitsOfBytes_succ, hlast, bitsOfBytes, List.flatMap_congr hold]; rfl

theorem PackerOk.length_stream {cap : Nat} {p : Packer} (hp : PackerOk cap p) : (p.stream dflt).length = p.bitLen := by
  rw [Packer.stream, List.length_append, length_bitsOfBytes, length_lowBits, hp.bits]

/-- One appended bit is the stream's next (R154, R155). -/
theorem stream_appendBit {cap off : Nat} {p q : Packer} {b : Bool} (hp : p.accCnt < 8)
    (h : appendBit cap off p b = .fine q) : q.stream dflt = p.stream dflt ++ [b] := by
  have hacc := lowBits_shiftIn p.acc b hp
  simp only [appendBit] at h
  split at h
  · next hfull =>
    rw [hfull] at hacc
    split at h
    · cases h
    · cases h
      rw [Packer.stream, Packer.stream, bitsOfBytes_store, hacc, lowBits_zero, List.append_nil, List.append_assoc]
  · cases h
    rw [Packer.stream, Packer.stream, hacc, List.append_assoc]

theorem stream_appendBits {cap off : Nat} {bs : List Bool} {p q : Packer} (hp : PackerOk cap p)
    (h : appendBits cap off bs p = .fine q) : q.stream dflt = p.stream dflt ++ bs := by
  induction bs generalizing p with
  | nil => cases h; rw [List.append_nil]
  | cons b bs ih =>
    simp only [appendBits] at h
    split at h
    · next r hr =>
      rw [ih (packerOk_appendBit hp hr) h, stream_appendBit hp.partialByte hr, List.append_assoc]; rfl
    · cases h

/-- `bits`, padded with 0 bits to whole bytes (R156). -/
def padded (bits : List Bool) : List Bool := bits ++ List.replicate (8 * ceil8 bits.length - bits.length) false

/-- The final partial byte completes the payload (R156). -/
theorem bitsOfBytes_flushLast {cap off : Nat} {p q : Packer} (hp : PackerOk cap p) (h : flushLast cap off p = .fine q) :
    bitsOfBytes (q.pay.byteAt dflt) (ceil8 q.bitLen) = padded (p.stream dflt) := by
  obtain ⟨-, hbits, hpartial⟩ := id hp
  rw [padded, hp.length_stream (dflt := dflt), Packer.stream]
  simp only [flushLast] at h
  split at h
  · split at h
    · cases h
    · cases h
      have hceil : ceil8 p.bitLen = p.pkP + 1 := by simp only [ceil8]; omega
      rw [hceil, bitsOfBytes_store, lowBits_shiftLeft _ hpartial.le, List.append_assoc,
        show 8 * (p.pkP + 1) - p.bitLen = 8 - p.accCnt by omega]
  · cases h
    have hcnt : p.accCnt = 0 := by omega
    have hceil : ceil8 p.bitLen = p.pkP := by simp only [ceil8]; omega
    rw [hceil, hcnt, show 8 * p.pkP - p.bitLen = 0 by omega, lowBits_zero]; simp

/-- The bits of a byte's code in a table; none where it has no code. -/
def tableBits (code : Vector (Option Code) 256) (b : Byte) : List Bool := ((atSym code b).map Code.bits).getD []

/-- PACK's loop stores the concatenated codes of its bytes, padded to whole bytes (R159 (b), (c)). -/
theorem bitsOfBytes_packLoop {cap : Nat} {code : Vector (Option Code) 256} {bs : List Byte} {i : Nat} {p q : Packer}
    (hp : PackerOk cap p) (h : packLoop cap code i bs p = .fine q) :
    bitsOfBytes (q.pay.byteAt dflt) (ceil8 q.bitLen) = padded (p.stream dflt ++ bs.flatMap (tableBits code)) := by
  induction bs generalizing i p with
  | nil => rw [List.flatMap_nil, List.append_nil]; exact bitsOfBytes_flushLast hp h
  | cons b bs ih =>
    simp only [packLoop] at h
    split at h
    · cases h
    · next c hc =>
      have hbits : tableBits code b = c.bits := by rw [tableBits, hc]; rfl
      split at h
      · next r hr =>
        rw [ih (packerOk_appendBits hp hr) h, stream_appendBits hp hr, List.flatMap_cons, hbits, List.append_assoc]
      · cases h

end Stream

/-- PACK's payload is the concatenated codes of SRC, padded to whole bytes (R159 (b) to (d)). -/
theorem payload_of_packRun {s : State} {p : Packer} (h : packRun s = .fine p) :
    bitsOfBytes (p.pay.byteAt (Config.powerOnByte s.resetEra .pay)) (ceil8 p.bitLen) =
      padded (s.srcBytes.flatMap s.codeBits) :=
  bitsOfBytes_packLoop (packerOk_start s.bufBytes s.pay) h

end Sys2Proof.Machine
end

section
/-! PROOFS. COMPRESS (R100): WALK ends over every tree, since each visit of a node at index m makes at most 2^(m+1) - 1 visits; so
all five units complete. Settles O36. -/

namespace Sys2Proof.Machine

/-! ### WALK ends -/

/-- The visits that the walk makes at most for a stack: 2^(m+1) - 1 for an entry at the node m. -/
def visitsBound (stack : List WalkEntry) : Nat := (stack.map fun e => 2 ^ (e.node.toNat + 1) - 1).sum

/-- Where each child's index is below its parent's, enough visits end the walk. -/
theorem walkLoop_isSome {nodeAt : Nat → Node} {n : Nat} (hbelow : ∀ m < n, ∀ c ∈ (nodeAt m).children, c < m) {fuel : Nat}
    {stack : List WalkEntry} (codes : Vector (Option Code) 256) (hstack : ∀ e ∈ stack, e.node.toNat < n)
    (hfuel : visitsBound stack ≤ fuel) : (walkLoop nodeAt fuel stack codes).isSome = true := by
  induction fuel generalizing stack codes with
  | zero =>
    cases stack with
    | nil => rfl
    | cons e stack =>
      have hpow := Nat.one_lt_two_pow (Nat.succ_ne_zero e.node.toNat)
      simp only [visitsBound, List.map_cons, List.sum_cons] at hfuel
      omega
  | succ fuel ih =>
    cases stack with
    | nil => rfl
    | cons e stack =>
      have he := hstack e List.mem_cons_self
      have hrest := fun e h => hstack e (List.mem_cons_of_mem _ h)
      simp only [visitsBound, List.map_cons, List.sum_cons, Nat.pow_succ] at hfuel
      simp only [walkLoop]
      split
      · exact ih _ hrest (by have := Nat.two_pow_pos e.node.toNat; simp only [visitsBound, Nat.pow_succ]; omega)
      · next f low high hn =>
        have hchild : ∀ c ∈ [low.toNat, high.toNat], c < e.node.toNat := fun c hc => hbelow _ he c (by rwa [hn])
        have hlow := hchild _ (by simp : low.toNat ∈ _)
        have hhigh := hchild _ (by simp : high.toNat ∈ _)
        refine ih _ (List.forall_mem_cons.2 ⟨hlow.trans he, List.forall_mem_cons.2 ⟨hhigh.trans he, hrest⟩⟩) ?_
        have hpowLow := Nat.pow_le_pow_right (n := 2) (by decide) hlow
        have hpowHigh := Nat.pow_le_pow_right (n := 2) (by decide) hhigh
        have hpos := Nat.two_pow_pos low.toNat
        simp only [visitsBound, List.map_cons, List.sum_cons, Nat.pow_succ] at hpowLow hpowHigh ⊢
        omega

/-- WALK ends over a tree (R141). -/
theorem walkTable_isSome {s : State} (hs : s.treeOk) : ∃ codes, walkTable s = some codes := by
  obtain ⟨hcnt, ⟨k, ht⟩, -⟩ := hs
  simp only [walkTable]
  split
  · exact ⟨_, rfl⟩
  · next h0 =>
    split
    · exact ⟨_, rfl⟩
    · next h1 =>
      have htwo := two_le_toNat h0 h1
      have hroot := toNat_sub_one h0
      refine Option.isSome_iff_exists.1 (walkLoop_isSome (n := s.node.length)
        (fun m hm => ht.below m _ (nodeAt_eq hm)) _ (fun e he => ?_) ?_)
      · rw [List.mem_singleton.1 he]; exact (by omega : (s.nodeCnt - 1).toNat < s.node.length)
      · have hexp : (s.nodeCnt - 1).toNat + 1 = s.nodeCnt.toNat := by omega
        rw [visitsBound, walkStart, List.map_singleton, List.sum_singleton, hexp]; exact Nat.sub_le _ _

theorem walkUnit_done {s : State} (hs : s.treeOk) : ∃ t, walkUnit s = .done t ∧ walkTable s = some t.code := by
  obtain ⟨codes, h⟩ := walkTable_isSome hs
  exact ⟨_, by rw [walkUnit, h], h⟩

/-! ### PACK -/

theorem codeLen_le (code : Vector (Option Code) 256) (b : Byte) : codeLen code b ≤ 255 := by
  cases hc : atSym code b with
  | none => rw [codeLen, hc]; exact Nat.zero_le _
  | some c => rw [codeLen_of_some hc, Code.bits_length]; omega

theorem codedBits_le (code : Vector (Option Code) 256) (bs : List Byte) : codedBits code bs ≤ bs.length * 255 := by
  rw [codedBits, ← List.length_map (as := bs) (codeLen code), ← smul_eq_mul]
  refine List.sum_le_card_nsmul _ _ fun n hn => ?_
  obtain ⟨b, -, rfl⟩ := List.mem_map.1 hn
  exact codeLen_le code b

/-- What PACK leaves without an error: BITLEN counts the bits of the codes of SRC, and the payload is the concatenated codes,
padded to whole bytes (R159 (a) to (d)). -/
theorem packUnit_payload {s t : State} (h : packUnit s = .done t) :
    t.bitLen.toNat = codedBits s.code s.srcBytes ∧
      bitsOfBytes t.payByte (ceil8 t.bitLen.toNat) = padded (s.srcBytes.flatMap s.codeBits) := by
  simp only [packUnit] at h
  split at h
  · cases h
  · next hfits =>
    split at h
    · next p hp =>
      cases h
      have hle := codedBits_le s.code s.srcBytes
      have hlen : s.srcBytes.length = s.srcLen.toNat := length_srcSlice s 0 _
      have hmax := s.cfg.nMax_le
      have hbits : p.bitLen = 0 + codedBits s.code s.srcBytes := packLoop_bitLen hp
      have hnat : (BitVec.ofNat 32 p.bitLen).toNat = p.bitLen := Nat.mod_eq_of_lt (by omega)
      have hpayload := payload_of_packRun hp
      dsimp only
      rw [hnat]
      exact ⟨by omega, hpayload⟩
    · cases h

/-- So the stream bits are the concatenated codes (R159 (b)). -/
theorem packUnit_payBits {s t : State} (h : packUnit s = .done t) : t.payBits = s.srcBytes.flatMap s.codeBits := by
  obtain ⟨hlen, hpayload⟩ := packUnit_payload h
  have hbits : t.bitLen.toNat = (s.srcBytes.flatMap s.codeBits).length := by rw [hlen, List.length_flatMap]; rfl
  rw [payBits_eq_take, hpayload, hbits, padded, List.take_left]

/-! ### The five units -/

/-- The stream bits are the codes of SRC, at most 8 bits for each byte on the whole. -/
structure State.Packed (s : State) : Prop where
  bits : s.payBits = s.srcBytes.flatMap s.codeBits
  short : s.bitLen.toNat ≤ 8 * s.srcLen.toNat

theorem packed_of_packUnit {s t : State} (hs : s.Coded) (h : packUnit s = .done t) : t.Packed := by
  have hframe : t = { s with pay := t.pay, bitLen := t.bitLen, hidden := t.hidden } := (unitOf_writes .pack s).of_done h
  have hshort := hs.short
  rw [← (packUnit_payload h).1] at hshort
  have hbits := packUnit_payBits h
  have hsrc : t.srcBytes = s.srcBytes := (congrArg State.srcBytes hframe).trans rfl
  have hcode : t.codeBits = s.codeBits := (congrArg State.codeBits hframe).trans rfl
  have hlen : t.srcLen = s.srcLen := (congrArg State.srcLen hframe).trans rfl
  exact ⟨by rw [hbits, hsrc, hcode], by rwa [hlen]⟩

/-- A payload of at most 8 bits for each byte of SRC leaves room for the largest header (R6). -/
theorem frameLen_le_of_packed {s : State} (hs : s.Packed) (hfits : s.srcLen.toNat ≤ s.cfg.nMax) :
    s.frameLen ≤ s.bufBytes := by
  have hk : s.kView ≤ 256 := length_presentSymbols_le s.freq
  have hshort := hs.short
  have hcap : s.bufBytes = s.cfg.nMax + 1286 := rfl
  simp only [State.frameLen, ceil8]; omega

/-- The units of COMPRESS complete for every input within N_MAX, and leave its table, its codes and their container. -/
theorem completes_compress {s : State} (hfits : s.srcLen.toNat ≤ s.cfg.nMax) :
    ∃ t, Completes (phasesOf .compress) s t ∧ t.Counted ∧ t.Packed ∧ t.HoldsFrame := by
  obtain ⟨u, hu⟩ : ∃ u, countUnit (enterPhase .count s) = .done u := ⟨_, if_neg (not_lt.2 hfits)⟩
  obtain ⟨v, hv⟩ : ∃ v, buildUnit (enterPhase .build u) = .done v := ⟨_, rfl⟩
  have hcounted : u.Counted := counted_of_countUnit hu
  obtain ⟨hcounted, htree⟩ := counted_of_buildUnit (s := enterPhase .build u) hcounted hv
  obtain ⟨w, hw, -⟩ := walkUnit_done (s := enterPhase .walk v) (treeOk_of_holdsTreeOf htree)
  have hcoded := coded_of_walkUnit (s := enterPhase .walk v) hcounted htree hw
  have hcounted : w.Counted := by rw [(unitOf_writes .walk (enterPhase .walk v)).of_done hw]; exact hcounted
  have hcoded : (enterPhase .pack w).Coded := ⟨hcoded.fits, hcoded.coded, hcoded.short⟩
  obtain ⟨x, hx, -⟩ := packUnit_of_coded hcoded
  have hpacked := packed_of_packUnit hcoded hx
  have hcounted : x.Counted := by rw [(unitOf_writes .pack (enterPhase .pack w)).of_done hx]; exact hcounted
  have hroom : (enterPhase .frame x).frameLen ≤ (enterPhase .frame x).bufBytes :=
    frameLen_le_of_packed (s := x) hpacked hcounted.1
  exact ⟨_, ⟨u, hu, v, hv, w, hw, x, hx, _, frameUnit_eq_framed hroom, rfl⟩, hcounted, ⟨hpacked.bits, hpacked.short⟩,
    holdsFrame_framed hroom⟩

/-- SRC and SRC_LEN are on the host's side. -/
theorem srcBytes_of_hostSide {s t : State} (h : t.hostSide = s.hostSide) : t.srcBytes = s.srcBytes := by
  have hsrc : t.src = s.src := congrArg HostSide.src h
  have hlen : t.srcLen = s.srcLen := congrArg HostSide.srcLen h
  have hera : t.resetEra = s.resetEra := congrArg HostSide.resetEra h
  simp only [State.srcBytes, State.srcSlice, State.srcByte, hsrc, hlen, hera]

/-- Settles O36: COUNT's table has the counts, PACK's payload the codes, and FRAME's output the container. -/
theorem compressNeverFails : Obligations.CompressNeverFails := by
  intro s hs hr hfits
  obtain ⟨t, ht, ⟨-, hfreq⟩, ⟨hbits, hshort⟩, hlen, ⟨hcount, hentry, hbitLen⟩, hpay⟩ :=
    completes_compress (s := accepted .compress s) hfits
  obtain ⟨hexec, hst, hinfo⟩ := exec_of_completes (i := .compress) rfl hs hr ht
  have hside := runUnits_hostSide (i := .compress) ht.runUnits
  have hsrcLen : t.srcLen = s.srcLen := congrArg HostSide.srcLen hside
  have hsrc : t.srcBytes = s.srcBytes := srcBytes_of_hostSide (t := t) hside
  have hmax := s.cfg.nMax_le
  have hbytes : s.srcBytes.length < 2 ^ 32 := by rw [State.srcBytes, length_srcSlice]; omega
  rw [hsrc] at hfreq hbits
  rw [hsrcLen] at hshort
  refine ⟨_, hexec, hst, hinfo, fun b => ?_, hshort, hbits, hlen, hcount, hentry, hbitLen, hpay⟩
  exact (congrArg (fun f => (atSym f b).toNat) hfreq).trans (atSym_countBytes hbytes b)

end Sys2Proof.Machine
end

section
/-! PROOFS. What UNPACK decodes (R167, R170, R171): the bits of a code in the tree lead the unpacker from the root to the symbol's
leaf, where it emits the symbol and is at the root again. For O38. -/

namespace Sys2Proof.Machine

/-! ### Paths to a leaf -/

/-- The child that a path's next step goes to: `low` on 0, `high` on 1 (R170). -/
def Node.child (n : Node) (bit : Bool) : BitVec 9 := if bit then n.high else n.low

theorem Node.child_mem_children {n : Node} (h : n.isInternal = true) (bit : Bool) : (n.child bit).toNat ∈ n.children := by
  cases n with
  | leaf => cases h
  | internal => cases bit <;> simp [Node.children, Node.child, Node.low, Node.high]

section LeadsTo
variable {nodeAt : Nat → Node} {m : Nat} {b : Byte}

theorem leadsTo_nil : LeadsTo nodeAt m [] b ↔ ∃ f, nodeAt m = .leaf b f := by simp [LeadsTo, descend]

/-- The first step of a path goes to a child of an internal node. -/
theorem leadsTo_cons {x : Bool} {bs : List Bool} : LeadsTo nodeAt m (x :: bs) b ↔
    (nodeAt m).isInternal = true ∧ LeadsTo nodeAt ((nodeAt m).child x).toNat bs b := by
  rw [LeadsTo, descend]
  cases nodeAt m with
  | leaf => simp [Node.isInternal]
  | internal => simp [Node.isInternal, Node.child, Node.low, Node.high, LeadsTo]

/-- Arenas that agree below `n`, where each child's index is below its parent's, have the same paths there. -/
theorem LeadsTo.congr {nodeAt' : Nat → Node} {n : Nat} (hsame : ∀ m < n, nodeAt' m = nodeAt m)
    (hbelow : ∀ m < n, ∀ c ∈ (nodeAt m).children, c < m) (hm : m < n) {bs : List Bool} (h : LeadsTo nodeAt m bs b) :
    LeadsTo nodeAt' m bs b := by
  induction bs generalizing m with
  | nil => rw [leadsTo_nil] at h ⊢; rwa [hsame m hm]
  | cons x bs ih =>
    rw [leadsTo_cons] at h ⊢
    rw [hsame m hm]
    obtain ⟨hint, h⟩ := h
    exact ⟨hint, ih ((hbelow m hm _ (Node.child_mem_children hint x)).trans hm) h⟩

end LeadsTo

/-! ### The code of a symbol in a tree -/

theorem treeCode_iff_leadsTo {s : State} {b : Byte} {bits : List Bool} (h1 : s.nodeCnt ≠ 1) :
    s.treeCode b bits ↔ LeadsTo s.nodeAt s.root.toNat bits b := by
  rw [State.treeCode, if_neg h1]; rfl

/-- The root is the last node. -/
theorem root_toNat {s : State} (hs : s.treeOk) (h0 : s.nodeCnt ≠ 0) : s.root.toNat = s.node.length - 1 := by
  rw [State.root, toNat_sub_one h0, hs.1]

/-- No symbol has the empty code in a tree. -/
theorem treeCode_ne_nil {s : State} (hs : s.treeOk) (h0 : s.nodeCnt ≠ 0) {b : Byte} {bits : List Bool}
    (h : s.treeCode b bits) : bits ≠ [] := by
  by_cases h1 : s.nodeCnt = 1
  · rw [State.treeCode, if_pos h1] at h
    rw [h.1]; exact List.cons_ne_nil _ _
  · rintro rfl
    rw [treeCode_iff_leadsTo h1, leadsTo_nil] at h
    obtain ⟨f, hleaf⟩ := h
    have hroot := root_toNat hs h0
    have htwo := two_le_toNat h0 h1
    obtain ⟨hcnt, ⟨k, ht⟩, -⟩ := hs
    have hsize := ht.size
    have hint := (ht.isInternal_iff (nodeAt_eq (m := s.root.toNat) (by omega))).2 (by omega)
    rw [hleaf] at hint; cases hint

/-- A code in a tree depends on NODE and NODE_CNT alone. -/
theorem treeCode_congr {s t : State} (hs : s.treeOk) (h0 : s.nodeCnt ≠ 0) (hnode : t.node = s.node)
    (hcnt : t.nodeCnt = s.nodeCnt) {b : Byte} {bits : List Bool} (h : s.treeCode b bits) : t.treeCode b bits := by
  have hroot := root_toNat hs h0
  have hpos : s.nodeCnt.toNat ≠ 0 := fun h => h0 (BitVec.eq_of_toNat_eq h)
  obtain ⟨hlen, ⟨k, ht⟩, -⟩ := hs
  have hsame : ∀ m < s.node.length, t.nodeAt m = s.nodeAt m := fun m hm => by
    rw [State.nodeAt, State.nodeAt, hnode, List.getElem?_eq_getElem hm]; rfl
  by_cases h1 : s.nodeCnt = 1
  · rw [State.treeCode, if_pos h1] at h
    rw [State.treeCode, if_pos (hcnt.trans h1), hsame 0 (by omega)]
    exact h
  · rw [treeCode_iff_leadsTo h1] at h
    rw [treeCode_iff_leadsTo (hcnt ▸ h1), show t.root = s.root by rw [State.root, hcnt]; rfl]
    exact h.congr hsame (fun m hm => ht.below m _ (nodeAt_eq hm)) (by omega)

/-! ### The loop -/

section Loop
variable {nMax j : Nat} {nodeAt : Nat → Node} {root : BitVec 9} {u : Unpacker}

theorem emit_fine (h : u.upO < nMax) (b : Byte) :
    emit nMax j u b = .fine { u with upO := u.upO + 1, dst := Memory.store u.dst u.upO b } := if_neg (not_le.2 h)

/-- A step to a leaf emits its symbol and goes back to the root (R170). -/
theorem unpackBit_to_leaf {bit : Bool} {b : Byte} {f : Word}
    (h : nodeAt ((nodeAt u.cur.toNat).child bit).toNat = .leaf b f) (hroom : u.upO < nMax) :
    unpackBit nMax j nodeAt false root u bit = .fine ⟨root, u.upO + 1, Memory.store u.dst u.upO b⟩ := by
  simp only [Node.child] at h
  simp [unpackBit, unpackMatch, h, emit, not_le.2 hroom]

/-- A step to an internal node goes there (R170). -/
theorem unpackBit_to_internal {bit : Bool} (h : (nodeAt ((nodeAt u.cur.toNat).child bit).toNat).isInternal = true) :
    unpackBit nMax j nodeAt false root u bit = .fine { u with cur := (nodeAt u.cur.toNat).child bit } := by
  cases hn : nodeAt ((nodeAt u.cur.toNat).child bit).toNat with
  | leaf => rw [hn] at h; cases h
  | internal =>
    simp only [Node.child] at hn
    simp only [unpackBit, unpackMatch, hn, Bool.false_eq_true, if_false]; rfl

/-- Along a path to a leaf the unpacker comes to the leaf, emits its symbol and is at the root again (R170). -/
theorem unpackLoop_leadsTo {bits : List Bool} {b : Byte} (rest : List Bool) (hne : bits ≠ [])
    (h : LeadsTo nodeAt u.cur.toNat bits b) (hroom : u.upO < nMax) :
    unpackLoop nMax nodeAt false root j (bits ++ rest) u =
      unpackLoop nMax nodeAt false root (j + bits.length) rest ⟨root, u.upO + 1, Memory.store u.dst u.upO b⟩ := by
  induction bits generalizing u j with
  | nil => exact absurd rfl hne
  | cons x bs ih =>
    obtain ⟨-, h⟩ := leadsTo_cons.1 h
    rw [List.cons_append, unpackLoop]
    cases bs with
    | nil =>
      obtain ⟨f, hleaf⟩ := leadsTo_nil.1 h
      rw [unpackBit_to_leaf hleaf hroom]; rfl
    | cons y bs =>
      rw [unpackBit_to_internal (leadsTo_cons.1 h).1]
      dsimp only
      rw [ih (u := { u with cur := (nodeAt u.cur.toNat).child x }) (List.cons_ne_nil y bs) h hroom,
        List.length_cons (a := x), Nat.add_right_comm j 1, Nat.add_assoc]

/-- The bits of a symbol's code in the tree make the unpacker emit the symbol (R170, R171). -/
theorem unpackLoop_treeCode {s : State} (hs : s.treeOk) (h0 : s.nodeCnt ≠ 0) {b : Byte} {bits : List Bool}
    (hcode : s.treeCode b bits) (rest : List Bool) (hcur : u.cur = s.root) (hroom : u.upO < nMax) :
    unpackLoop nMax s.nodeAt (s.nodeCnt == 1) s.root j (bits ++ rest) u =
      unpackLoop nMax s.nodeAt (s.nodeCnt == 1) s.root (j + bits.length) rest
        ⟨s.root, u.upO + 1, Memory.store u.dst u.upO b⟩ := by
  by_cases h1 : s.nodeCnt = 1
  · rw [State.treeCode, if_pos h1] at hcode
    obtain ⟨rfl, hsym⟩ := hcode
    rw [List.singleton_append, unpackLoop, beq_iff_eq.2 h1, unpackBit, if_pos rfl, unpackSingle, if_neg Bool.false_ne_true,
      emit_fine hroom, hsym, hcur]
    rfl
  · rw [beq_false_of_ne h1]
    exact unpackLoop_leadsTo rest (treeCode_ne_nil hs h0 hcode) (hcur ▸ (treeCode_iff_leadsTo h1).1 hcode) hroom

/-- A concatenation of codes makes the unpacker store its symbols, one after another (R175 (d)). -/
theorem unpackLoop_codes {s : State} (hs : s.treeOk) (h0 : s.nodeCnt ≠ 0) {ps : List (Byte × List Bool)}
    (hps : ∀ p ∈ ps, s.treeCode p.1 p.2) (rest : List Bool) (hcur : u.cur = s.root) (hroom : u.upO + ps.length ≤ nMax) :
    unpackLoop nMax s.nodeAt (s.nodeCnt == 1) s.root j (ps.flatMap Prod.snd ++ rest) u =
      unpackLoop nMax s.nodeAt (s.nodeCnt == 1) s.root (j + (ps.flatMap Prod.snd).length) rest
        ⟨s.root, u.upO + ps.length, Memory.storeList u.dst u.upO (ps.map Prod.fst)⟩ := by
  induction ps generalizing u j with
  | nil => rw [← hcur]; rfl
  | cons p ps ih =>
    obtain ⟨hp, hps⟩ := List.forall_mem_cons.1 hps
    rw [List.length_cons] at hroom
    rw [List.flatMap_cons, List.append_assoc, unpackLoop_treeCode hs h0 hp _ hcur (by omega),
      ih hps rfl (by dsimp only; omega), List.length_append, List.length_cons, Nat.add_assoc, Nat.add_right_comm u.upO,
      Nat.add_assoc]
    rfl

end Loop

/-- UNPACK of a concatenation of at most N_MAX codes of the tree completes, and leaves its symbols in DST (R167, R175 (d)). -/
theorem unpackUnit_codes {s : State} (hs : s.treeOk) {ps : List (Byte × List Bool)} (hps : ∀ p ∈ ps, s.treeCode p.1 p.2)
    (hnone : s.nodeCnt = 0 → ps = []) (hbits : s.payBits = ps.flatMap Prod.snd) (hlen : ps.length ≤ s.cfg.nMax) :
    ∃ t, unpackUnit s = .done t ∧ t.dstLen.toNat = ps.length ∧ ∀ i p, ps[i]? = some p → t.dstByte i = p.1 := by
  have hbitLen : s.payBits.length = s.bitLen.toNat := by simp [State.payBits]
  have hcnt : ps ≠ [] → s.nodeCnt ≠ 0 := mt hnone
  by_cases hzero : s.bitLen = 0
  · have hnil : ps = [] := by
      by_contra hne
      obtain ⟨p, ps, rfl⟩ := List.exists_cons_of_ne_nil hne
      have hp := treeCode_ne_nil hs (hcnt hne) (hps p List.mem_cons_self)
      rw [List.eq_nil_of_length_eq_zero (hbitLen.trans (by rw [hzero]; rfl))] at hbits
      exact hp (List.append_eq_nil_iff.1 hbits.symm).1
    subst hnil
    exact ⟨_, if_pos hzero, rfl, fun i p h => by cases h⟩
  · have h0 : s.nodeCnt ≠ 0 := hcnt fun hnil => hzero (BitVec.eq_of_toNat_eq (by rw [← hbitLen, hbits, hnil]; rfl))
    have hrun : unpackRun s = .fine ⟨s.root, 0 + ps.length, Memory.storeList s.dst 0 (ps.map Prod.fst)⟩ := by
      rw [unpackRun, hbits, ← List.append_nil (ps.flatMap Prod.snd),
        unpackLoop_codes (u := ⟨s.root, 0, s.dst⟩) hs h0 hps [] rfl (by rwa [Nat.zero_add])]
      simp [unpackLoop]
    have hmax := s.cfg.nMax_le
    have hbytes := bytesAt_storeList s.dst 0 (ps.map Prod.fst) (Config.powerOnByte s.resetEra .dst)
    refine ⟨_, by rw [unpackUnit, if_neg hzero, if_neg h0, hrun], ?_, fun i p hi => ?_⟩
    · dsimp only; rw [Nat.zero_add]; exact Nat.mod_eq_of_lt (by omega)
    · obtain ⟨hlt, rfl⟩ := List.getElem?_eq_some_iff.1 hi
      have hbyte := hbytes.getElem (j := i) (by rwa [List.length_map])
      rw [Nat.zero_add, List.getElem_map] at hbyte
      exact hbyte

end Sys2Proof.Machine
end

section
/-! PROOFS. DECOMPRESS of a container (R101): PARSE loads the table and the stream bits that the container holds, BUILD makes the
table's tree, and UNPACK decodes the bits in it. Settles O38. -/

namespace Sys2Proof.Machine

/-! ### Tables from entries -/

/-- Tables with the same entries are equal. -/
theorem eq_of_atSym {α : Type} {v w : Vector α 256} (h : ∀ b, atSym v b = atSym w b) : v = w := by
  rw [← Vector.toList_inj, ← symbols_map_atSym, ← symbols_map_atSym, funext h]

/-- Entries that agree with a table load it, and leave the other symbols as they were (R186). -/
theorem atSym_foldl_setSym {es : List (Byte × Word)} {f : Vector Word 256} (hes : ∀ e ∈ es, e.2 = atSym f e.1)
    (g : Vector Word 256) (b : Byte) :
    atSym (es.foldl (fun f e => setSym f e.1 e.2) g) b = if b ∈ es.map Prod.fst then atSym f b else atSym g b := by
  induction es generalizing g with
  | nil => simp
  | cons e es ih =>
    obtain ⟨he, hes⟩ := List.forall_mem_cons.1 hes
    rw [List.foldl_cons, ih hes, List.map_cons]
    by_cases hb : b = e.1
    · simp [hb, he]
    · simp [hb, atSym_setSym_ne _ _ hb]

/-- The entries of a table's container: the present symbols in ascending order, each with its frequency (R70). -/
def tableEntries (f : Vector Word 256) : List (Byte × Word) := (presentSymbols f).map fun b => (b, atSym f b)

theorem map_fst_tableEntries (f : Vector Word 256) : (tableEntries f).map Prod.fst = presentSymbols f := by
  simp [tableEntries, Function.comp_def]

/-- A table's entries load it (R186). -/
theorem loadEntries_tableEntries (f : Vector Word 256) : loadEntries (tableEntries f) = f := by
  refine eq_of_atSym fun b => ?_
  have hes : ∀ e ∈ tableEntries f, e.2 = atSym f e.1 := fun e he => by
    obtain ⟨b, -, rfl⟩ := List.mem_map.1 he; rfl
  rw [loadEntries, atSym_foldl_setSym hes, map_fst_tableEntries, zeroFreq, atSym_replicate]
  split
  · rfl
  · next h => exact (not_not.1 (mt mem_presentSymbols.2 h)).symm

theorem freqSum_tableEntries (f : Vector Word 256) : freqSum (tableEntries f) = freqTotal f := by
  rw [← sum_freq_leavesOf, freqSum, tableEntries, leavesOf, List.map_map, List.map_map]; rfl

/-- No symbol is listed twice. -/
theorem nodup_presentSymbols (f : Vector Word 256) : (presentSymbols f).Nodup := by
  have hrise := leavesOf_ascending f
  rw [leavesOf, List.map_map, List.pairwise_map] at hrise
  exact hrise.imp fun hlt heq => by rw [heq] at hlt; exact lt_irrefl _ hlt

/-! ### PARSE -/

/-- PARSE reads the entries of a header that SRC holds, one after another (R188, step 5). -/
theorem parseEntries_of_headerAt {s : State} {f : Vector Word 256} {bits : Nat} (h : HeaderAt s.srcByte f bits) {n i : Nat}
    {seen : List (Byte × Word)} (hn : i + n = (presentSymbols f).length) (hseen : seen.reverse = (tableEntries f).take i) :
    parseEntries s n i seen = .ok (tableEntries f) := by
  induction n generalizing i seen with
  | zero => rw [parseEntries, hseen, List.take_of_length_le (by simp [tableEntries]; omega)]
  | succ n ih =>
    have hi : i < (presentSymbols f).length := by omega
    obtain ⟨hsym, hfreq⟩ := h.entry i _ (List.getElem?_eq_getElem hi)
    have hread : s.srcRead (2 + 5 * i + 1) 4 = (atSym f (presentSymbols f)[i]).toNat := by
      rw [show 2 + 5 * i + 1 = 3 + 5 * i by omega]; exact hfreq
    have hpresent : (atSym f (presentSymbols f)[i]).toNat ≠ 0 := fun h0 =>
      mem_presentSymbols.1 (List.getElem_mem hi) (BitVec.eq_of_toNat_eq h0)
    have hnew : seen.any (fun e => e.1 == (presentSymbols f)[i]) = false := List.any_eq_false.2 fun e he heq => by
      have hearlier : e.1 ∈ (presentSymbols f).take i := by
        rw [← map_fst_tableEntries, ← List.map_take, ← hseen]
        exact List.mem_map_of_mem (List.mem_reverse.2 he)
      have hlater : (presentSymbols f)[i] ∈ (presentSymbols f).drop i := by
        rw [List.drop_eq_getElem_cons hi]; exact List.mem_cons_self
      exact List.disjoint_take_drop (nodup_presentSymbols f) le_rfl hearlier (beq_iff_eq.1 heq ▸ hlater)
    have hnext : (((presentSymbols f)[i], atSym f (presentSymbols f)[i]) :: seen).reverse = (tableEntries f).take (i + 1) := by
      rw [List.reverse_cons, hseen, List.take_add_one]
      simp [tableEntries, hi]
    simp only [parseEntries, hsym, hread, hpresent, hnew, if_false, Bool.false_eq_true, BitVec.ofNat_toNat, BitVec.setWidth_eq]
    exact ih (by omega) hnext

/-- The header that SRC holds in front of a container. -/
theorem State.holdsContainer.headerAt {s : State} {f : Vector Word 256} {bits : List Bool} (h : s.holdsContainer f bits)
    (hbits : bits.length < 2 ^ 32) : HeaderAt s.srcByte f bits.length := by
  obtain ⟨-, hheader, -⟩ := h
  refine headerAt_of_bytesAt ?_ hbits
  rw [BytesAt, length_headerBytes]; exact hheader

theorem length_bits_of_fits {l h n cap : Nat} (hl : l = h + ceil8 n) (hfit : l ≤ cap) : n ≤ 8 * cap := by
  simp only [ceil8] at hl; omega

/-- A container that fits SRC, with a table whose sum fits N_MAX and no bit where it has no symbol, passes PARSE's checks. -/
theorem parseChecks_of_holdsContainer {s : State} {f : Vector Word 256} {bits : List Bool} (h : s.holdsContainer f bits)
    (hfit : s.srcLen.toNat ≤ s.bufBytes) (hsum : freqTotal f ≤ s.cfg.nMax) (hnone : presentSymbols f = [] → bits = []) :
    parseChecks s = .ok ⟨tableEntries f, bits.length, 6 + 5 * (presentSymbols f).length⟩ := by
  obtain ⟨hlen, -⟩ := id h
  have hmax := bufBytes_le s
  have hbits := length_bits_of_fits hlen hfit
  have hheader := h.headerAt (by omega)
  have hk := length_presentSymbols_le f
  have hcount : s.srcRead 0 2 = (presentSymbols f).length := hheader.count
  have hbitLength : s.srcRead (6 + 5 * (presentSymbols f).length - 4) 4 = bits.length := by
    rw [show 6 + 5 * (presentSymbols f).length - 4 = 2 + 5 * (presentSymbols f).length by omega]; exact hheader.bitLength
  have hempty : ¬ ((presentSymbols f).length = 0 ∧ bits.length ≠ 0) := fun ⟨h0, hne⟩ =>
    hne (List.length_eq_zero_iff.2 (hnone (List.length_eq_zero_iff.1 h0)))
  have hentries := parseEntries_of_headerAt hheader (i := 0) (seen := []) (Nat.zero_add _) rfl
  simp only [parseChecks, hcount, hentries, hbitLength]
  rw [if_neg (by omega), if_neg (by omega), if_neg (by omega), if_neg (by omega), if_neg hempty,
    if_neg (by rw [freqSum_tableEntries]; omega), if_neg (by omega)]

/-- PARSE of such a container loads its table and its stream bits (R186). -/
theorem parseUnit_of_holdsContainer {s : State} {f : Vector Word 256} {bits : List Bool} (h : s.holdsContainer f bits)
    (hfit : s.srcLen.toNat ≤ s.bufBytes) (hsum : freqTotal f ≤ s.cfg.nMax) (hnone : presentSymbols f = [] → bits = []) :
    ∃ t, parseUnit s = .done t ∧ t.freq = f ∧ t.payBits = bits := by
  obtain ⟨hlen, -, hstream⟩ := id h
  have hmax := bufBytes_le s
  have hbits := length_bits_of_fits hlen hfit
  have hnat : (BitVec.ofNat 32 bits.length).toNat = bits.length := Nat.mod_eq_of_lt (by omega)
  have hbytes := bytesAt_storeList s.pay 0 (s.srcSlice (6 + 5 * (presentSymbols f).length) (ceil8 bits.length))
    (Config.powerOnByte s.resetEra .pay)
  refine ⟨_, by rw [parseUnit, parseChecks_of_holdsContainer h hfit hsum hnone], loadEntries_tableEntries f, ?_⟩
  refine List.ext_getElem (by simp [State.payBits, hnat]) fun j _ hj => ?_
  have hj8 : j / 8 < ceil8 bits.length := by simp only [ceil8]; omega
  have hbyte := hbytes.getElem (j := j / 8) (by rwa [length_srcSlice])
  have hsrc : (s.srcSlice (6 + 5 * (presentSymbols f).length) (ceil8 bits.length))[j / 8]'(by rwa [length_srcSlice]) =
      s.srcByte (6 + 5 * (presentSymbols f).length + j / 8) := by simp [State.srcSlice]
  rw [Nat.zero_add, hsrc] at hbyte
  rw [← hstream j hj]
  simp only [State.payBits, List.getElem_map, List.getElem_range, State.payBit]
  exact congrArg (·.getLsbD (7 - j % 8)) hbyte

/-! ### The four units -/

theorem nodeCnt_ne_zero_of_holdsTreeOf {s : State} {f : Vector Word 256} (h : s.holdsTreeOf f) (hne : presentSymbols f ≠ []) :
    s.nodeCnt ≠ 0 := fun h0 => by
  obtain ⟨-, -, hcnt⟩ := h
  have hlen := nodeCnt_buildTree f
  rw [← hcnt, h0] at hlen
  have hnil := nodes_buildTree_eq_nil.1 (List.length_eq_zero_iff.1 hlen.symm)
  exact hne (List.map_eq_nil_iff.1 hnil)

/-- The codes of a table's tree are those of every state that holds the tree. -/
theorem treeCode_of_treeState {s : State} {f : Vector Word 256} (h : s.holdsTreeOf f) (hne : presentSymbols f ≠ [])
    {b : Byte} {bits : List Bool} (hcode : (treeState f).treeCode b bits) : s.treeCode b bits :=
  have hstate : (treeState f).holdsTreeOf f := ⟨rfl, rfl, rfl⟩
  have ⟨hnode, _, hcnt⟩ := h
  treeCode_congr (treeOk_of_holdsTreeOf hstate) (nodeCnt_ne_zero_of_holdsTreeOf hstate hne) hnode hcnt hcode

/-- The table of a container and its tree, the bits to decode in it, and the parameter. -/
structure State.Loaded (s : State) (f : Vector Word 256) (bits : List Bool) (c : Config) : Prop where
  freq : s.freq = f
  tree : s.holdsTreeOf f
  bits : s.payBits = bits
  cfg : s.cfg = c

theorem State.Loaded.enterPhase {s : State} {f : Vector Word 256} {bits : List Bool} {c : Config} (h : s.Loaded f bits c)
    (p : Phase) : (enterPhase p s).Loaded f bits c := ⟨h.freq, h.tree, h.bits, h.cfg⟩

/-- WALK and UNPACK keep them. -/
theorem Writes.loaded {s t : State} {p : Phase} {f : Vector Word 256} {bits : List Bool} {c : Config} (h : Writes s t p)
    (hp : p = .walk ∨ p = .unpack) (hs : s.Loaded f bits c) : t.Loaded f bits c := by
  obtain ⟨hfreq, htree, hbits, hcfg⟩ := hs
  rcases hp with rfl | rfl <;> rw [show t = _ from h] <;> exact ⟨hfreq, htree, hbits, hcfg⟩

/-- BUILD makes the tree of the table that PARSE has loaded. -/
theorem loaded_of_buildUnit {s t : State} (h : buildUnit s = .done t) : t.Loaded s.freq s.payBits s.cfg := by
  cases h; exact ⟨rfl, ⟨rfl, rfl, rfl⟩, rfl, rfl⟩

/-- UNPACK of a message of codes in the loaded tree completes, and leaves the message. -/
theorem unpackUnit_of_loaded {s : State} {f : Vector Word 256} {ps : List (Byte × List Bool)} {c : Config}
    (hs : s.Loaded f (ps.flatMap Prod.snd) c) (hps : ∀ p ∈ ps, (treeState f).treeCode p.1 p.2)
    (hnone : presentSymbols f = [] → ps = []) (hlen : ps.length ≤ c.nMax) :
    ∃ t, unpackUnit s = .done t ∧ t.dstLen.toNat = ps.length ∧ ∀ i p, ps[i]? = some p → t.dstByte i = p.1 := by
  obtain ⟨-, htree, hbits, hcfg⟩ := hs
  refine unpackUnit_codes (treeOk_of_holdsTreeOf htree) (fun p hp => ?_) (fun h0 => ?_) hbits (hcfg ▸ hlen)
  · exact treeCode_of_treeState htree (fun hnil => List.ne_nil_of_mem hp (hnone hnil)) (hps p hp)
  · exact hnone (by_contra fun hne => nodeCnt_ne_zero_of_holdsTreeOf htree hne h0)

/-- The units of DECOMPRESS complete over a container of codes in its own table's tree, and leave the message. -/
theorem completes_decompress {s : State} {f : Vector Word 256} {ps : List (Byte × List Bool)}
    (hcont : s.holdsContainer f (ps.flatMap Prod.snd)) (hfit : s.srcLen.toNat ≤ s.bufBytes)
    (hsum : freqTotal f ≤ s.cfg.nMax) (hps : ∀ p ∈ ps, (treeState f).treeCode p.1 p.2)
    (hnone : presentSymbols f = [] → ps = []) (hlen : ps.length ≤ s.cfg.nMax) :
    ∃ t, Completes (phasesOf .decompress) s t ∧ t.dstLen.toNat = ps.length ∧
      (∀ i p, ps[i]? = some p → t.dstByte i = p.1) ∧ t.freq = f ∧ t.node = (buildTree f).nodes := by
  obtain ⟨u, hu, hfreq, hbits⟩ := parseUnit_of_holdsContainer (s := enterPhase .parse s) hcont hfit hsum
    fun h => by rw [hnone h]; rfl
  have hcfg : u.cfg = s.cfg := congrArg HostSide.cfg ((unitOf_hostSide .parse (enterPhase .parse s)).of_done hu)
  obtain ⟨v, hv⟩ : ∃ v, buildUnit (enterPhase .build u) = .done v := ⟨_, rfl⟩
  have hloaded : v.Loaded u.freq u.payBits u.cfg := loaded_of_buildUnit (s := enterPhase .build u) hv
  rw [hfreq, hbits, hcfg] at hloaded
  obtain ⟨w, hw, -⟩ := walkUnit_done (s := enterPhase .walk v) (treeOk_of_holdsTreeOf hloaded.tree)
  have hloaded := ((unitOf_writes .walk (enterPhase .walk v)).of_done hw).loaded (.inl rfl) (hloaded.enterPhase .walk)
  obtain ⟨t, ht, hdstLen, hdst⟩ := unpackUnit_of_loaded (hloaded.enterPhase .unpack) hps hnone hlen
  have hloaded := ((unitOf_writes .unpack (enterPhase .unpack w)).of_done ht).loaded (.inr rfl) (hloaded.enterPhase .unpack)
  exact ⟨t, ⟨u, hu, v, hv, w, hw, t, ht, rfl⟩, hdstLen, hdst, hloaded.freq, hloaded.tree.1⟩

/-- Settles O38: PARSE's table and bits, and what UNPACK decodes in the table's tree. -/
theorem decompressDecodesAContainer : Obligations.DecompressDecodesAContainer := by
  intro s f ps hs hr hsum hps hnone hcont hfit hlen
  obtain ⟨t, ht, hdstLen, hdst, hfreq, hnode⟩ :=
    completes_decompress (s := accepted .decompress s) hcont hfit hsum hps hnone hlen
  obtain ⟨hexec, hst, hinfo⟩ := exec_of_completes (i := .decompress) rfl hs hr ht
  exact ⟨_, hexec, hst, hinfo, hdstLen, hdst, hfreq, hnode⟩

end Sys2Proof.Machine
end

section
/-! PROOFS. Command words that are ignored (R91), the commands NOP, CLRST and SRST (R94, R96, R97), and the errors that stay
latched (R209, R238). Settles O5, O6, O7 and O58. -/

namespace Sys2Proof.Machine

/-! ### Ignored command words -/

/-- A core that accepts no command ignores every word but SRST, and but CLRST where it is not busy (R91). -/
theorem writeCmd_of_not_ready {w : Word} {s : State} (hr : s.ready = false) (hsrst : w ≠ encode .srst)
    (hclrst : w = encode .clrst → s.status.busy = true) : writeCmd w s = .next s := by
  cases hd : decode w with
  | rejected r => simp [writeCmd, hd, writeIllegal, hr]
  | instr i =>
    have hw := eq_encode_of_decode hd
    have hexec : exec i s = .next s := by
      cases i with
      | nop => rfl
      | clrst => exact if_pos (hclrst hw)
      | srst => exact absurd hw hsrst
      | _ => exact exec_of_not_ready rfl hr
    simp [writeCmd_of_decode hd, hexec, launch, hr]

/-- Settles O5: with BUSY = 1 or an error latched the core accepts no command. -/
theorem ignoredCommandsChangeNothing : Obligations.IgnoredCommandsChangeNothing := by
  intro w s
  refine ⟨fun hb hsrst => writeCmd_of_not_ready ?_ hsrst fun _ => hb,
    fun he hclrst hsrst => writeCmd_of_not_ready ?_ hsrst fun hw => absurd hw hclrst⟩
  · simp [State.ready, hb]
  · simp [State.ready, he]

/-! ### NOP, CLRST and SRST -/

theorem exec_clrst_of_idle {s : State} (hb : s.status.busy = false) : exec .clrst s = .next (clearStatus s) := by
  simp [exec, execClrst, hb]

theorem exec_clrst_of_busy {s : State} (hb : s.status.busy = true) : exec .clrst s = .next s := if_pos hb

/-- Settles O6: NOP is the identity, and CLRST clears the status of a core that is not busy. -/
theorem nopAndClrstEffects : Obligations.NopAndClrstEffects := fun _ =>
  ⟨rfl, exec_clrst_of_idle, exec_clrst_of_busy⟩

/-- Settles O7: both resets are `resetCore`, whose memories and arena hold nothing. -/
theorem srstResetsTheCore : Obligations.SrstResetsTheCore := fun s =>
  ⟨resetCore s, rfl, rfl, rfl, rfl, rfl, rfl, rfl, rfl, rfl, rfl, rfl, rfl, rfl, atSym_replicate 0, rfl,
    atSym_replicate none, rfl, fun _ => rfl, fun _ => rfl, fun _ => rfl, fun _ => rfl, rfl, rfl, rfl, rfl, rfl⟩

/-! ### Latched errors -/

/-- `t` has the STATUS and ERR_INFO of `s`. -/
def State.sameLatch (s t : State) : Prop := t.status = s.status ∧ t.errInfo = s.errInfo

theorem sameLatch_regWrite (d : Word) (r : Reg) (s : State) : s.sameLatch (s.regWrite d r) := by
  cases r with
  | srcData => simp only [State.regWrite]; split <;> exact ⟨rfl, rfl⟩
  | _ => exact ⟨rfl, rfl⟩

theorem sameLatch_afterRead (r : Reg) (s : State) : s.sameLatch (s.afterRead r) := by
  cases r with
  | srcData | dstData => simp only [State.afterRead]; split <;> exact ⟨rfl, rfl⟩
  | _ => exact ⟨rfl, rfl⟩

/-- No read changes STATUS or ERR_INFO (R24, R238). -/
theorem sameLatch_hostRead (off : Nat) (s : State) : s.sameLatch (hostRead off s) := by
  unfold hostRead
  split
  · unfold busyRead; split <;> exact ⟨rfl, rfl⟩
  · unfold idleRead; split
    · exact ⟨rfl, rfl⟩
    · next r _ _ => exact sameLatch_afterRead r s
    · exact ⟨rfl, rfl⟩

/-- With an error latched a host write changes STATUS and ERR_INFO only if it writes CLRST or SRST to CMD (R91, R209). -/
theorem hostWrite_latched {off : Nat} {d : Word} {s t : State} (he : s.status.err ≠ .noError)
    (h : hostWrite off d s = .next t) : s.sameLatch t ∨ (off = 0x04 ∧ (d = encode .clrst ∨ d = encode .srst)) := by
  unfold hostWrite at h
  split at h
  · next hreg =>
    by_cases hd : d = encode .clrst ∨ d = encode .srst
    · exact .inr ⟨regAt_eq_cmd hreg, hd⟩
    · obtain ⟨hclrst, hsrst⟩ := not_or.1 hd
      rw [(ignoredCommandsChangeNothing d s).2 he hclrst hsrst] at h
      cases h; exact .inl ⟨rfl, rfl⟩
  · next r _ _ =>
    cases h; split
    · exact .inl ⟨rfl, rfl⟩
    · exact .inl (sameLatch_regWrite d r s)
  · cases h; exact .inl ⟨rfl, rfl⟩

/-- Settles O58: no operation of the host but the three changes STATUS or ERR_INFO, and no time passes for a command. -/
theorem errorsStayLatched : Obligations.ErrorsStayLatched := by
  intro s t _ hf he h
  rcases hq : s.host with _ | ⟨op, rest⟩
  · simp only [step, hq, tick_of_idle hf, Host.Outcome.next.injEq] at h
    exact .inl (h ▸ ⟨rfl, rfl⟩)
  · have htick : tick { s with host := rest } = { s with host := rest } := tick_of_idle hf
    simp only [step, hq] at h
    cases op with
    | read off =>
      rcases transaction_cases off (.read off) { s with host := rest } (.next (hostRead off (tick { s with host := rest })))
        with ⟨-, heff⟩ | ⟨-, -, -, heff⟩ | ⟨-, -, heff⟩ <;> rw [hostStep, heff] at h <;> cases h
      rw [htick]
      exact .inl (sameLatch_hostRead off { s with host := rest })
    | write off d =>
      rcases transaction_cases off (.write off d) { s with host := rest } (hostWrite off d (tick { s with host := rest }))
        with ⟨-, heff⟩ | ⟨-, -, -, heff⟩ | ⟨-, -, heff⟩ <;> rw [hostStep, heff] at h
      · cases h
      · cases h
      · rw [htick] at h
        rcases hostWrite_latched (s := { s with host := rest }) he h with hsame | ⟨rfl, rfl | rfl⟩
        · exact .inl hsame
        · exact .inr (.inr (.inl ⟨rest, rfl⟩))
        · exact .inr (.inr (.inr ⟨rest, rfl⟩))
    | irregular width off => cases h
    | wait =>
      simp only [hostStep, htick, Host.Outcome.next.injEq] at h
      have hread := sameLatch_hostRead 0x08 { s with host := rest }
      subst h; split <;> exact .inl hread
    | waitIrq =>
      simp only [hostStep, htick, Host.Outcome.next.injEq] at h
      subst h; split <;> exact .inl ⟨rfl, rfl⟩
    | hardReset => exact .inr (.inl ⟨rest, rfl⟩)

end Sys2Proof.Machine
end

section
/-! PROOFS. The capacity checks that precede every write (R110, R158 (a), R182). Settles O10. -/

namespace Sys2Proof.Machine

/-- A working command whose first unit raises ends there, in its phase (R205). -/
theorem exec_of_first_raised {i : Instr} {p : Phase} {ps : List Phase} {s t : State} {e : ErrCode} {w : Word}
    (hi : phasesOf i = p :: ps) (hr : s.ready = true) (h : unitOf p (enterPhase p (accepted i s)) = .raised e w t) :
    exec i s = .next (releaseHidden (raise e w p t)) := by
  rw [exec_of_ready (isWorking_of_phasesOf hi) hr, unitsOf, hi, List.map_cons, runUnits_raised h]

/-- So it leaves what that unit leaves, the error, and any value in the hidden registers (U6). -/
theorem exec_of_first_raised_frame {i : Instr} {p : Phase} {ps : List Phase} {s t : State} {e : ErrCode} {w : Word}
    (hi : phasesOf i = p :: ps) (hr : s.ready = true) (h : unitOf p (enterPhase p (accepted i s)) = .raised e w t) :
    ∃ hid, exec i s = .next { t with status := Status.failed e p, errInfo := w, hidden := hid } :=
  ⟨_, exec_of_first_raised hi hr h⟩

theorem countUnit_of_long {s : State} (h : s.srcLen.toNat > s.cfg.nMax) :
    countUnit s = .raised .capacity (BitVec.ofNat 32 s.cfg.nMax) s := if_pos h

theorem packUnit_of_long {s : State} (h : s.srcLen.toNat > s.cfg.nMax) :
    packUnit s = .raised .capacity (BitVec.ofNat 32 s.cfg.nMax) { s with bitLen := 0 } := if_pos h

theorem frameUnit_of_long {s : State} (h : s.frameLen > s.bufBytes) :
    frameUnit s = .raised .capacity (BitVec.ofNat 32 s.bufBytes) s := if_pos h

/-- Settles O10: each check is the first thing that the command's first unit does. -/
theorem capacityChecksPrecedeEveryWrite : Obligations.CapacityChecksPrecedeEveryWrite := by
  intro s hr
  refine ⟨fun hlong => ?count, fun hlong => ?compress, fun hlong => ?pack, fun hlong => ?frame⟩
  case count =>
    obtain ⟨hid, hexec⟩ := exec_of_first_raised_frame (i := .count) rfl hr
      (countUnit_of_long (s := enterPhase .count (accepted .count s)) hlong)
    exact ⟨hid, _, hexec⟩
  case compress =>
    obtain ⟨hid, hexec⟩ := exec_of_first_raised_frame (i := .compress) rfl hr
      (countUnit_of_long (s := enterPhase .count (accepted .compress s)) hlong)
    exact ⟨hid, _, hexec⟩
  case pack =>
    obtain ⟨hid, hexec⟩ := exec_of_first_raised_frame (i := .pack) rfl hr
      (packUnit_of_long (s := enterPhase .pack (accepted .pack s)) hlong)
    exact ⟨hid, _, hexec⟩
  case frame =>
    obtain ⟨hid, hexec⟩ := exec_of_first_raised_frame (i := .frame) rfl hr
      (frameUnit_of_long (s := enterPhase .frame (accepted .frame s)) hlong)
    exact ⟨hid, _, hexec⟩

end Sys2Proof.Machine
end

section
/-! PROOFS. What the units read: WALK and UNPACK read NODE below NODE_CNT alone, since each child's index is below its
parent's, and PARSE reads SRC below SRC_LEN alone. For O37, O39, O40 and O59. -/

namespace Sys2Proof.Machine

/-! ### NODE -/

/-- Two states that hold the same arena have the same entries in it, whatever their free values. -/
theorem nodeAt_congr {s t : State} (hnode : t.node = s.node) {m : Nat} (hm : m < s.node.length) :
    t.nodeAt m = s.nodeAt m := by
  rw [State.nodeAt, State.nodeAt, hnode, List.getElem?_eq_getElem hm]; rfl

/-- A step from a node below `n` goes below `n`: to a child, or from a leaf to the entry 0 (R15). -/
theorem Node.child_lt {nodeAt : Nat → Node} {n m : Nat} (hbelow : ∀ m < n, ∀ c ∈ (nodeAt m).children, c < m)
    (hm : m < n) (bit : Bool) : ((nodeAt m).child bit).toNat < n := by
  cases hint : (nodeAt m).isInternal
  · have hzero : (nodeAt m).child bit = 0 := by
      cases hn : nodeAt m with
      | leaf => cases bit <;> rfl
      | internal => rw [hn] at hint; cases hint
    rw [hzero]; exact Nat.zero_lt_of_lt hm
  · exact (hbelow m hm _ (Node.child_mem_children hint bit)).trans hm

section Arena
variable {nodeAt nodeAt' : Nat → Node} {n : Nat} (hsame : ∀ m < n, nodeAt' m = nodeAt m)
  (hbelow : ∀ m < n, ∀ c ∈ (nodeAt m).children, c < m)
include hsame hbelow

/-- The walk visits nodes below the root alone. -/
theorem walkLoop_congr (fuel : Nat) {stack : List WalkEntry} (codes : Vector (Option Code) 256)
    (hstack : ∀ e ∈ stack, e.node.toNat < n) : walkLoop nodeAt' fuel stack codes = walkLoop nodeAt fuel stack codes := by
  induction fuel generalizing stack codes with
  | zero => cases stack <;> rfl
  | succ fuel ih =>
    cases stack with
    | nil => rfl
    | cons e stack =>
      obtain ⟨he, hrest⟩ := List.forall_mem_cons.1 hstack
      simp only [walkLoop, hsame _ he]
      split
      · exact ih _ hrest
      · next w low high hn =>
        have hchild : ∀ c ∈ [low.toNat, high.toNat], c < n := fun c hc => (hbelow _ he c (by rwa [hn])).trans he
        exact ih _ (List.forall_mem_cons.2
          ⟨hchild _ (by simp), List.forall_mem_cons.2 ⟨hchild _ (by simp), hrest⟩⟩)

/-- One micro-step of the unpacker reads nodes below the root alone, and stays below it. -/
theorem unpackBit_congr {nMax j : Nat} {single : Bool} {root : BitVec 9} {u : Unpacker} (bit : Bool) (hroot : root.toNat < n)
    (hcur : u.cur.toNat < n) :
    unpackBit nMax j nodeAt' single root u bit = unpackBit nMax j nodeAt single root u bit ∧
      ∀ v, unpackBit nMax j nodeAt single root u bit = .fine v → v.cur.toNat < n := by
  have hemit : ∀ u v b, u.cur.toNat < n → emit nMax j u b = .fine v → v.cur.toNat < n := fun u v b hu he => by
    rcases emit_cases nMax j u b with ⟨-, h⟩ | ⟨-, h⟩ <;> rw [h] at he <;> cases he
    exact hu
  have hnext : ((nodeAt u.cur.toNat).child bit).toNat < n := Node.child_lt hbelow hcur bit
  simp only [Node.child] at hnext
  cases single
  · simp only [unpackBit, unpackMatch, hsame _ hcur, hsame _ hnext, Bool.false_eq_true, if_false, true_and]
    intro v hv
    split at hv
    · split at hv <;> cases hv
      exact hroot
    · cases hv; exact hnext
  · cases bit
    · simp only [unpackBit, unpackSingle, hsame 0 (Nat.zero_lt_of_lt hcur), if_true, Bool.false_eq_true, if_false, true_and]
      exact fun v => hemit u v _ hcur
    · exact ⟨rfl, nofun⟩

theorem unpackLoop_congr {nMax : Nat} {single : Bool} {root : BitVec 9} (bits : List Bool) (j : Nat) {u : Unpacker}
    (hroot : root.toNat < n) (hcur : u.cur.toNat < n) :
    unpackLoop nMax nodeAt' single root j bits u = unpackLoop nMax nodeAt single root j bits u := by
  induction bits generalizing j u with
  | nil => rfl
  | cons bit bits ih =>
    obtain ⟨heq, hstay⟩ := unpackBit_congr hsame hbelow (nMax := nMax) (j := j) (single := single) bit hroot hcur
    simp only [unpackLoop, heq]
    split
    · next v hv => exact ih (j + 1) (hstay v hv)
    · rfl

end Arena

/-- The codes of a tree depend on NODE and NODE_CNT alone (R141). -/
theorem walkTable_congr {s t : State} (hs : s.treeOk) (hnode : t.node = s.node) (hcnt : t.nodeCnt = s.nodeCnt) :
    walkTable t = walkTable s := by
  obtain ⟨hlen, ⟨k, ht⟩, -⟩ := hs
  have hpos : s.nodeCnt ≠ 0 → 0 < s.node.length := fun h0 => by
    rw [← hlen]; exact Nat.pos_of_ne_zero fun h => h0 (BitVec.eq_of_toNat_eq h)
  simp only [walkTable, walkStart, hcnt]
  split
  · rfl
  · next h0 =>
    rw [nodeAt_congr hnode (hpos h0)]
    split
    · rfl
    · refine walkLoop_congr (n := s.node.length) (fun m hm => nodeAt_congr hnode hm)
        (fun m hm => ht.below m _ (nodeAt_eq hm)) _ _ fun e he => ?_
      have hroot := toNat_sub_one h0
      have hpos := hpos h0
      rw [List.mem_singleton.1 he]
      exact (by omega : (s.nodeCnt - 1).toNat < s.node.length)

/-- What UNPACK's loop does depends on NODE, NODE_CNT, the stream bits, N_MAX and the DST it finds (R167). -/
theorem unpackRun_congr {s t : State} (hs : s.treeOk) (h0 : s.nodeCnt ≠ 0) (hnode : t.node = s.node)
    (hcnt : t.nodeCnt = s.nodeCnt) (hcfg : t.cfg = s.cfg) (hbits : t.payBits = s.payBits) :
    unpackRun t = unpackLoop s.cfg.nMax s.nodeAt (s.nodeCnt == 1) s.root 0 s.payBits ⟨s.root, 0, t.dst⟩ := by
  have hroot := root_toNat hs h0
  have hpos : s.nodeCnt.toNat ≠ 0 := fun h => h0 (BitVec.eq_of_toNat_eq h)
  obtain ⟨hlen, ⟨k, ht⟩, -⟩ := hs
  rw [unpackRun, hcnt, hcfg, hbits, show t.root = s.root by rw [State.root, hcnt]; rfl]
  exact unpackLoop_congr (fun m hm => nodeAt_congr hnode hm) (fun m hm => ht.below m _ (nodeAt_eq hm)) _ _ (by omega)
    (by dsimp only; omega)

/-! ### SRC -/

section Source
variable {s t : State} (hsrc : ∀ i < s.srcLen.toNat, t.srcByte i = s.srcByte i)
include hsrc

theorem srcSlice_congr {a n : Nat} (h : a + n ≤ s.srcLen.toNat) : t.srcSlice a n = s.srcSlice a n :=
  List.map_congr_left fun j hj => hsrc _ (by rw [List.mem_range] at hj; omega)

theorem srcRead_congr {a n : Nat} (h : a + n ≤ s.srcLen.toNat) : t.srcRead a n = s.srcRead a n :=
  congrArg beNat (srcSlice_congr hsrc h)

theorem parseEntries_congr {n i : Nat} (h : 2 + 5 * (i + n) ≤ s.srcLen.toNat) (seen : List (Byte × Word)) :
    parseEntries t n i seen = parseEntries s n i seen := by
  induction n generalizing i seen with
  | zero => rfl
  | succ n ih =>
    simp only [parseEntries, hsrc (2 + 5 * i) (by omega), srcRead_congr hsrc (by omega : 2 + 5 * i + 1 + 4 ≤ _)]
    rw [ih (by omega)]

/-- PARSE's checks depend on SRC[0..SRC_LEN), SRC_LEN and N_MAX alone (R188). -/
theorem parseChecks_congr (hlen : t.srcLen = s.srcLen) (hcfg : t.cfg = s.cfg) : parseChecks t = parseChecks s := by
  simp only [parseChecks, State.bufBytes, hlen, hcfg]
  split
  · rfl
  · split
    · rfl
    · rw [srcRead_congr hsrc (by omega : 0 + 2 ≤ _)]
      split
      · rfl
      · split
        · rfl
        · rw [parseEntries_congr hsrc (by omega), srcRead_congr hsrc (by omega)]

end Source

/-- States with the same SRC_LEN and the same SRC[0..SRC_LEN) have the same bytes there. -/
theorem srcByte_of_srcBytes {s t : State} (hlen : t.srcLen = s.srcLen) (h : t.srcBytes = s.srcBytes) :
    ∀ i < s.srcLen.toNat, t.srcByte i = s.srcByte i := fun i hi => by
  rw [State.srcBytes, State.srcBytes, hlen] at h
  simpa [State.srcSlice] using List.map_inj_left.1 h i (List.mem_range.2 hi)

end Sys2Proof.Machine
end

section
/-! PROOFS. COMPRESS and DECOMPRESS beside the staged commands they stand for (R98, R100, R101): BUSY, DONE, PHASE, DST_LEN,
the hidden registers and the model's counter may differ between them, and no unit's work depends on these. Settles O37 and
O59. -/

namespace Sys2Proof.Machine

/-! ### The same work -/

/-- `t` is `s`, but for BUSY, DONE, PHASE, DST_LEN, the hidden registers and the model's counter. -/
def State.SameWork (s t : State) : Prop :=
  t = { s with
    dstLen := t.dstLen
    status := { s.status with busy := t.status.busy, done := t.status.done, phase := t.status.phase }
    hidden := t.hidden
    cmdEra := t.cmdEra }

/-- Two units end alike: both without an error or with the same one, in states that `R` holds of, or neither ends. -/
def UnitResult.Rel (R : State → State → Prop) : UnitResult → UnitResult → Prop
  | .done s, .done t => R s t
  | .raised e w s, .raised e' w' t => e' = e ∧ w' = w ∧ R s t
  | .stuck f, .stuck f' => f' = f
  | _, _ => False

namespace UnitResult.Rel
variable {R : State → State → Prop} {r r' : UnitResult} {s : State}

theorem of_done (h : r.Rel R r') (hr : r = .done s) : ∃ t, r' = .done t ∧ R s t := by
  subst hr
  cases r' with
  | done t => exact ⟨t, rfl, h⟩
  | raised | stuck => cases h

theorem of_raised {e : ErrCode} {w : Word} (h : r.Rel R r') (hr : r = .raised e w s) : ∃ t, r' = .raised e w t ∧ R s t := by
  subst hr
  cases r' with
  | raised e' w' t => obtain ⟨rfl, rfl, h⟩ := h; exact ⟨t, rfl, h⟩
  | done | stuck => cases h

end UnitResult.Rel

/-- No unit's work depends on what the sequencer writes or on DST_LEN; only what it leaves in DST_LEN may depend on what it
finds there. -/
theorem unitOf_sameWork {p : Phase} {s t : State} (h : s.SameWork t) (htree : p = .walk ∨ p = .unpack → s.treeOk) :
    (unitOf p s).Rel (fun u v => u.SameWork v ∧ (t.dstLen = s.dstLen → v.dstLen = u.dstLen)) (unitOf p t) := by
  have hcfg : t.cfg = s.cfg := (congrArg State.cfg h).trans rfl
  have hlen : t.srcLen = s.srcLen := (congrArg State.srcLen h).trans rfl
  have hbits : t.bitLen = s.bitLen := (congrArg State.bitLen h).trans rfl
  have hnode : t.node = s.node := (congrArg State.node h).trans rfl
  have hcnt : t.nodeCnt = s.nodeCnt := (congrArg State.nodeCnt h).trans rfl
  cases p with
  | idle => exact ⟨h, id⟩
  | build => exact ⟨by rw [h]; rfl, id⟩
  | count =>
    simp only [unitOf, countUnit, hlen, hcfg]; split
    · exact ⟨rfl, rfl, h, id⟩
    · exact ⟨by rw [h]; rfl, id⟩
  | walk =>
    simp only [unitOf, walkUnit, walkTable_congr (htree (.inl rfl)) hnode hcnt]; split
    · exact ⟨by rw [h]; rfl, id⟩
    · exact rfl
  | pack =>
    have hrun : packRun t = packRun s := by rw [h]; rfl
    simp only [unitOf, packUnit, hlen, hcfg, hrun]; split
    · exact ⟨rfl, rfl, by rw [h]; rfl, id⟩
    · split
      · exact ⟨by rw [h]; rfl, id⟩
      · exact ⟨rfl, rfl, by rw [h]; rfl, id⟩
  | frame =>
    have hcap : t.bufBytes = s.bufBytes := (congrArg State.bufBytes h).trans rfl
    have hframe : t.frameLen = s.frameLen := (congrArg State.frameLen h).trans rfl
    simp only [unitOf, frameUnit, hcap, hframe]; split
    · exact ⟨rfl, rfl, h, id⟩
    · exact ⟨by rw [h]; rfl, fun _ => rfl⟩
  | parse =>
    have hsrc : ∀ i < s.srcLen.toNat, t.srcByte i = s.srcByte i := fun i _ => (congrArg (State.srcByte · i) h).trans rfl
    simp only [unitOf, parseUnit, parseChecks_congr hsrc hlen hcfg]; split
    · exact ⟨rfl, rfl, by rw [h]; rfl, id⟩
    · exact ⟨by rw [h]; rfl, id⟩
  | unpack =>
    simp only [unitOf, unpackUnit, hbits, hcnt]; split
    · exact ⟨by rw [h]; rfl, fun _ => rfl⟩
    · split
      · exact ⟨rfl, rfl, by rw [h]; rfl, id⟩
      · next h0 =>
        have hdst : t.dst = s.dst := (congrArg State.dst h).trans rfl
        have hrun : unpackRun t = unpackRun s := by
          rw [unpackRun_congr (htree (.inr rfl)) h0 hnode hcnt hcfg ((congrArg State.payBits h).trans rfl), hdst]; rfl
        rw [hrun]
        split
        · exact ⟨by rw [h]; rfl, fun _ => rfl⟩
        · exact ⟨rfl, rfl, by rw [h]; rfl, id⟩

/-! ### The sequencer around the same work -/

namespace State.SameWork
variable {s t : State}

theorem enterPhase (p : Phase) (h : s.SameWork t) : (enterPhase p s).SameWork (enterPhase p t) := by rw [h]; rfl

theorem of_accepted (i : Instr) (h : s.SameWork t) : (accepted i s).SameWork t := h

theorem accepted (i : Instr) (s : State) : s.SameWork (accepted i s) := rfl

/-- Where DST_LEN is the same too, completion leaves the same state, but for the hidden registers and the counter. -/
theorem completed (h : s.SameWork t) (hd : t.dstLen = s.dstLen) :
    ∃ (hid : Hidden) (era : Nat),
      releaseHidden (complete t) = { releaseHidden (complete s) with hidden := hid, cmdEra := era } :=
  ⟨(releaseHidden (complete t)).hidden, t.cmdEra, by rw [h, hd]; rfl⟩

/-- Where DST_LEN is the same too, the same error leaves the same state, but for the hidden registers and the counter. -/
theorem raised (h : s.SameWork t) (hd : t.dstLen = s.dstLen) (e : ErrCode) (w : Word) (p : Phase) :
    ∃ (hid : Hidden) (era : Nat),
      releaseHidden (raise e w p t) = { releaseHidden (raise e w p s) with hidden := hid, cmdEra := era } :=
  ⟨(releaseHidden (raise e w p t)).hidden, t.cmdEra, by rw [h, hd]; rfl⟩

end State.SameWork

/-! ### Staged commands -/

/-- What an accepted command of one phase leaves: its unit's state, complete, or the error that its unit raises. -/
theorem exec_single_cases {i : Instr} {p : Phase} {s t : State} (hi : phasesOf i = [p]) (hr : s.ready = true)
    (h : exec i s = .next t) :
    (∃ u, unitOf p (enterPhase p (accepted i s)) = .done u ∧ t = releaseHidden (complete u)) ∨
      ∃ e w u, unitOf p (enterPhase p (accepted i s)) = .raised e w u ∧ t = releaseHidden (raise e w p u) := by
  rw [exec_of_ready (isWorking_of_phasesOf hi) hr, unitsOf_of_phasesOf hi] at h
  rcases runUnits_cons_next h with ⟨u, hu, hend⟩ | hraised
  · cases hend; exact .inl ⟨u, hu, rfl⟩
  · exact .inr hraised

/-- Without an error its unit has ended well. -/
theorem exec_single_done {i : Instr} {p : Phase} {s t : State} (hi : phasesOf i = [p]) (hr : s.ready = true)
    (h : exec i s = .next t) (hok : t.status.err = .noError) :
    ∃ u, unitOf p (enterPhase p (accepted i s)) = .done u ∧ t = releaseHidden (complete u) := by
  rcases exec_single_cases hi hr h with hdone | ⟨e, w, u, hu, rfl⟩
  · exact hdone
  · exact absurd hok (unitOf_raises hu).1

theorem Writes.dstLen {s t : State} {p : Phase} (h : Writes s t p) (hp : p ≠ .frame ∧ p ≠ .unpack) :
    t.dstLen = s.dstLen := by
  cases p with
  | frame => exact absurd rfl hp.1
  | unpack => exact absurd rfl hp.2
  | _ => exact (congrArg State.dstLen h).trans rfl

/-- A staged command that ends without an error, beside its unit in COMPRESS or DECOMPRESS. -/
theorem exec_stage {i : Instr} {p : Phase} {s t m : State} (hi : phasesOf i = [p]) (hp : p ≠ .frame ∧ p ≠ .unpack)
    (hr : s.ready = true) (htree : p = .walk → s.treeOk) (h : exec i s = .next t) (hok : t.status.err = .noError)
    (hm : s.SameWork m) :
    ∃ n, unitOf p (enterPhase p m) = .done n ∧ t.SameWork n ∧ n.dstLen = m.dstLen ∧ t.ready = true := by
  obtain ⟨u, hu, rfl⟩ := exec_single_done hi hr h hok
  obtain ⟨n, hn, hwork, -⟩ := (unitOf_sameWork ((hm.of_accepted i).enterPhase p)
    fun hp' => htree (hp'.resolve_right hp.2)).of_done hu
  exact ⟨n, hn, hwork, ((unitOf_writes p _).of_done hn).dstLen hp, ready_iff.2 ⟨rfl, hok⟩⟩

/-- A staged command that produces DST, beside the last unit of COMPRESS or DECOMPRESS. -/
theorem exec_last_stage {i : Instr} {p : Phase} {s t m : State} (hi : phasesOf i = [p]) (hd : producesDst i = true)
    (hr : s.ready = true) (htree : p = .walk ∨ p = .unpack → s.treeOk) (h : exec i s = .next t) (hm : s.SameWork m)
    (hm0 : m.dstLen = 0) :
    ∃ (hid : Hidden) (era : Nat), runUnits [(p, unitOf p)] m = .next { t with hidden := hid, cmdEra := era } := by
  have hrel := unitOf_sameWork (p := p) ((hm.of_accepted i).enterPhase p) htree
  have hdst : m.dstLen = (accepted i s).dstLen := by rw [hm0, accepted, accept_dstLen, hd]; rfl
  rcases exec_single_cases hi hr h with ⟨u, hu, rfl⟩ | ⟨e, w, u, hu, rfl⟩
  · obtain ⟨n, hn, hwork, hlen⟩ := hrel.of_done hu
    obtain ⟨hid, era, hend⟩ := hwork.completed (hlen hdst)
    exact ⟨hid, era, by rw [runUnits_done hn, runUnits, hend]⟩
  · obtain ⟨n, hn, hwork, hlen⟩ := hrel.of_raised hu
    obtain ⟨hid, era, hend⟩ := hwork.raised (hlen hdst) e w p
    exact ⟨hid, era, by rw [runUnits_raised hn, hend]⟩

/-- BUILD ends without an error, and makes a tree (R16, R120). -/
theorem exec_build_tree {s t : State} (hr : s.ready = true) (h : exec .build s = .next t) :
    t.status.err = .noError ∧ t.treeOk := by
  obtain ⟨herr, -⟩ := exec_single_keeps_error rfl (not_raisesIn (.inl rfl)) h
  have hok : t.status.err = .noError := herr.trans (ready_iff.1 hr).2
  obtain ⟨u, hu, rfl⟩ := exec_single_done rfl hr h hok
  exact ⟨hok, treeOk_of_holdsTreeOf (loaded_of_buildUnit (s := enterPhase .build (accepted .build s)) hu).tree⟩

/-- WALK ends without an error, and leaves the tree (R141). -/
theorem exec_walk_tree {s t : State} (hr : s.ready = true) (hs : s.treeOk) (h : exec .walk s = .next t) :
    t.status.err = .noError ∧ t.treeOk := by
  obtain ⟨herr, -⟩ := exec_single_keeps_error rfl (not_raisesIn (.inr rfl)) h
  refine ⟨herr.trans (ready_iff.1 hr).2, ?_⟩
  rw [eq_of_withCommandOf (exec_single_writes (p := .walk) rfl h)]; exact hs

/-- Settles O37: each staged command does the work of its unit in COMPRESS, and FRAME leaves the same state. -/
theorem compressIsItsStages : Obligations.CompressIsItsStages := by
  intro s t₁ t₂ t₃ t₄ t₅ _ hr h₁ hok₁ h₂ h₃ h₄ hok₄ h₅
  obtain ⟨m₁, hm₁, hw₁, hd₁, hr₁⟩ := exec_stage (p := .count) rfl (by decide) hr nofun h₁ hok₁
    (State.SameWork.accepted .compress s)
  obtain ⟨hok₂, htree₂⟩ := exec_build_tree hr₁ h₂
  obtain ⟨m₂, hm₂, hw₂, hd₂, hr₂⟩ := exec_stage (p := .build) rfl (by decide) hr₁ nofun h₂ hok₂ hw₁
  obtain ⟨hok₃, -⟩ := exec_walk_tree hr₂ htree₂ h₃
  obtain ⟨m₃, hm₃, hw₃, hd₃, hr₃⟩ := exec_stage (p := .walk) rfl (by decide) hr₂ (fun _ => htree₂) h₃ hok₃ hw₂
  obtain ⟨m₄, hm₄, hw₄, hd₄, hr₄⟩ := exec_stage (p := .pack) rfl (by decide) hr₃ nofun h₄ hok₄ hw₃
  have hd : m₄.dstLen = 0 := by rw [hd₄, hd₃, hd₂, hd₁]; rfl
  obtain ⟨hid, era, hlast⟩ := exec_last_stage (p := .frame) rfl rfl hr₄ nofun h₅ hw₄ hd
  refine ⟨hid, era, ?_⟩
  rw [exec_of_ready rfl hr, ← hlast]
  exact (runUnits_done hm₁).trans ((runUnits_done hm₂).trans ((runUnits_done hm₃).trans (runUnits_done hm₄)))

/-- With an error its unit has raised it. -/
theorem exec_single_raised {i : Instr} {p : Phase} {s t : State} (hi : phasesOf i = [p]) (hr : s.ready = true)
    (h : exec i s = .next t) (he : t.status.err ≠ .noError) :
    ∃ e w u, unitOf p (enterPhase p (accepted i s)) = .raised e w u ∧ t = releaseHidden (raise e w p u) := by
  rcases exec_single_cases hi hr h with ⟨u, hu, rfl⟩ | hraised
  · have hst := ((unitOf_writes p _).of_done hu).status.1
    exact absurd ((congrArg Status.err hst).trans (ready_iff.1 hr).2) he
  · exact hraised

/-- What PARSE leaves of the tables on an error (R190). -/
theorem parseUnit_raised {s t : State} {e : ErrCode} {w : Word} (h : parseUnit s = .raised e w t) :
    t = { s with freq := zeroFreq, bitLen := 0 } := by
  simp only [parseUnit] at h
  split at h <;> cases h
  rfl

/-- UNPACK leaves DST_LEN as it was on an error (R174). -/
theorem unpackUnit_raised_dstLen {s t : State} {e : ErrCode} {w : Word} (h : unpackUnit s = .raised e w t) :
    t.dstLen = s.dstLen := by
  simp only [unpackUnit] at h
  split at h
  · cases h
  · split at h
    · cases h; rfl
    · split at h <;> cases h
      rfl

/-- Settles O59: PARSE's unit raises alike in DECOMPRESS; else each staged command does the work of its unit there. -/
theorem decompressIsItsStages : Obligations.DecompressIsItsStages := by
  refine ⟨fun s t _ hr h he => ?parse, fun s t₁ t₂ t₃ t₄ _ hr h₁ hok₁ h₂ h₃ h₄ => ?staged⟩
  case parse =>
    obtain ⟨e, w, u, hu, rfl⟩ := exec_single_raised (p := .parse) rfl hr h he
    have hwork := ((State.SameWork.accepted .decompress s).of_accepted .parse).enterPhase .parse
    obtain ⟨m, hm, -⟩ := (unitOf_sameWork (p := .parse) hwork nofun).of_raised hu
    have hexec := exec_of_first_raised (i := .decompress) rfl hr hm
    obtain rfl := parseUnit_raised hu
    obtain rfl := parseUnit_raised hm
    exact ⟨⟨_, hexec⟩, rfl⟩
  case staged =>
    obtain ⟨m₁, hm₁, hw₁, hd₁, hr₁⟩ := exec_stage (p := .parse) rfl (by decide) hr nofun h₁ hok₁
      (State.SameWork.accepted .decompress s)
    obtain ⟨hok₂, htree₂⟩ := exec_build_tree hr₁ h₂
    obtain ⟨m₂, hm₂, hw₂, hd₂, hr₂⟩ := exec_stage (p := .build) rfl (by decide) hr₁ nofun h₂ hok₂ hw₁
    obtain ⟨hok₃, htree₃⟩ := exec_walk_tree hr₂ htree₂ h₃
    obtain ⟨m₃, hm₃, hw₃, hd₃, hr₃⟩ := exec_stage (p := .walk) rfl (by decide) hr₂ (fun _ => htree₂) h₃ hok₃ hw₂
    have hd : m₃.dstLen = 0 := by rw [hd₃, hd₂, hd₁]; rfl
    obtain ⟨hid, era, hlast⟩ := exec_last_stage (p := .unpack) rfl rfl hr₃ (fun _ => htree₃) h₄ hw₃ hd
    refine ⟨⟨hid, era, ?_⟩, fun he => ?_⟩
    · rw [exec_of_ready rfl hr, ← hlast]
      exact (runUnits_done hm₁).trans ((runUnits_done hm₂).trans (runUnits_done hm₃))
    · obtain ⟨e, w, u, hu, rfl⟩ := exec_single_raised (p := .unpack) rfl hr₃ h₄ he
      exact ⟨rfl, unpackUnit_raised_dstLen hu⟩

end Sys2Proof.Machine
end

section
/-! PROOFS. What COMPRESS leaves (R100, R103): the table, its tree and its codes, the coded payload, and their container in
DST, which DECOMPRESS decodes. Settles O39. -/

namespace Sys2Proof.Machine

/-! ### What COMPRESS leaves -/

/-- DST holds the container that FRAME makes of FREQ, BITLEN and PAY, byte for byte (R70, R181). -/
structure State.HoldsFrameBytes (s : State) : Prop where
  length : s.dstLen = BitVec.ofNat 32 s.frameLen
  room : s.frameLen ≤ s.bufBytes
  bytes : BytesAt s.dstByte 0 s.frameBytes

theorem State.HoldsFrameBytes.toNat_dstLen {s : State} (h : s.HoldsFrameBytes) : s.dstLen.toNat = s.frameLen := by
  have hmax := bufBytes_le s
  have hroom := h.room
  rw [h.length]; exact Nat.mod_eq_of_lt (by omega)

theorem holdsFrameBytes_of_frameUnit {s t : State} (h : frameUnit s = .done t) : t.HoldsFrameBytes := by
  simp only [frameUnit] at h
  split at h <;> cases h
  next hroom =>
  exact ⟨rfl, not_lt.1 hroom, bytesAt_storeList s.dst 0 s.frameBytes (Config.powerOnByte s.resetEra .dst)⟩

/-- FREQ is the table `f`, and NODE and CODE are its tree and the codes of that tree. -/
structure State.TablesOf (s : State) (f : Vector Word 256) : Prop where
  freq : s.freq = f
  tree : s.holdsTreeOf f
  codes : walkTable (treeState f) = some s.code

/-- SRC is counted, every byte of it has a code, and the codes are those of the counts' tree. -/
structure State.Encoded (s : State) : Prop where
  counted : s.Counted
  tables : s.TablesOf s.freq
  coded : ∀ b ∈ s.srcBytes, (atSym s.code b).isSome = true

/-- BITLEN and the payload are those of the concatenated codes of SRC, padded to whole bytes (R159). -/
structure State.PayloadOfCodes (s : State) : Prop where
  bitLength : s.bitLen.toNat = codedBits s.code s.srcBytes
  payload : bitsOfBytes s.payByte (ceil8 s.bitLen.toNat) = padded (s.srcBytes.flatMap s.codeBits)
  bits : s.payBits = s.srcBytes.flatMap s.codeBits

/-- What COMPRESS leaves. -/
structure State.Compressed (s : State) : Prop where
  encoded : s.Encoded
  payload : s.PayloadOfCodes
  output : s.HoldsFrameBytes

/-- The codes of a table's tree are those of every state that holds the tree. -/
theorem walkTable_treeState {s : State} {f : Vector Word 256} (h : s.holdsTreeOf f) :
    walkTable (treeState f) = walkTable s := by
  obtain ⟨hnode, -, hcnt⟩ := id h
  exact walkTable_congr (treeOk_of_holdsTreeOf h) hnode.symm hcnt.symm

theorem walkTable_of_walkUnit {s t : State} (h : walkUnit s = .done t) : walkTable s = some t.code := by
  simp only [walkUnit] at h
  split at h <;> cases h
  next codes hcodes => exact hcodes

/-- WALK writes the codes of the tree that BUILD made of FREQ. -/
theorem tablesOf_of_walkUnit {s t : State} {f : Vector Word 256} (hfreq : s.freq = f) (htree : s.holdsTreeOf f)
    (h : walkUnit s = .done t) : t.TablesOf f := by
  have hcodes := walkTable_of_walkUnit h
  rw [← walkTable_treeState htree] at hcodes
  rw [show t = { s with code := t.code, hidden := t.hidden } from (unitOf_writes .walk s).of_done h]
  exact ⟨hfreq, htree, hcodes⟩

/-- WALK over BUILD's tree of COUNT's table gives every byte of SRC its code. -/
theorem encoded_of_walkUnit {s t : State} (hs : s.Counted) (htree : s.holdsTreeOf s.freq) (h : walkUnit s = .done t) :
    t.Encoded := by
  have hcoded := coded_of_walkUnit hs htree h
  have htables := tablesOf_of_walkUnit rfl htree h
  rw [show t = { s with code := t.code, hidden := t.hidden } from (unitOf_writes .walk s).of_done h] at hcoded htables ⊢
  exact ⟨hs, htables, hcoded.coded⟩

theorem State.Encoded.enterPhase {s : State} (h : s.Encoded) (p : Phase) : (enterPhase p s).Encoded :=
  ⟨h.counted, ⟨rfl, h.tables.tree, h.tables.codes⟩, h.coded⟩

theorem Writes.encoded {s t : State} {p : Phase} (h : Writes s t p) (hp : p = .pack ∨ p = .frame) (hs : s.Encoded) :
    t.Encoded := by
  obtain ⟨hcounted, ⟨-, htree, hcodes⟩, hcoded⟩ := hs
  rcases hp with rfl | rfl <;> rw [show t = _ from h] <;> exact ⟨hcounted, ⟨rfl, htree, hcodes⟩, hcoded⟩

theorem payloadOfCodes_of_packUnit {s t : State} (h : packUnit s = .done t) : t.PayloadOfCodes := by
  obtain ⟨hlen, hpayload⟩ := packUnit_payload h
  have hbits := packUnit_payBits h
  rw [show t = { s with pay := t.pay, bitLen := t.bitLen, hidden := t.hidden } from (unitOf_writes .pack s).of_done h]
    at hlen hpayload hbits ⊢
  exact ⟨hlen, hpayload, hbits⟩

theorem payloadOfCodes_of_frameUnit {s t : State} (hs : s.PayloadOfCodes) (h : frameUnit s = .done t) :
    t.PayloadOfCodes := by
  obtain ⟨hlen, hpayload, hbits⟩ := hs
  rw [show t = { s with dst := t.dst, dstLen := t.dstLen, hidden := t.hidden } from (unitOf_writes .frame s).of_done h]
  exact ⟨hlen, hpayload, hbits⟩

theorem compressed_of_completes {s t : State} (h : Completes (phasesOf .compress) s t) : t.Compressed := by
  obtain ⟨u, hu, v, hv, w, hw, x, hx, y, hy, rfl⟩ := h
  have hcounted : u.Counted := counted_of_countUnit hu
  obtain ⟨hcounted, htree⟩ := counted_of_buildUnit (s := enterPhase .build u) hcounted hv
  have hencoded := encoded_of_walkUnit (s := enterPhase .walk v) hcounted htree hw
  have hencoded := ((unitOf_writes .pack (enterPhase .pack w)).of_done hx).encoded (.inl rfl)
    (hencoded.enterPhase .pack)
  have hencoded := ((unitOf_writes .frame (enterPhase .frame x)).of_done hy).encoded (.inr rfl)
    (hencoded.enterPhase .frame)
  have hpayload := payloadOfCodes_of_packUnit hx
  have hpayload := payloadOfCodes_of_frameUnit (s := enterPhase .frame x)
    ⟨hpayload.bitLength, hpayload.payload, hpayload.bits⟩ hy
  exact ⟨hencoded, hpayload, holdsFrameBytes_of_frameUnit hy⟩

/-- COMPRESS of an input within N_MAX leaves its table, its codes and their container, and the host's side as it was. -/
theorem exec_compress_next {s t : State} (hr : s.ready = true) (hfits : s.srcLen.toNat ≤ s.cfg.nMax)
    (h : exec .compress s = .next t) :
    ∃ u, t = releaseHidden (complete u) ∧ u.Compressed ∧ u.hostSide = s.hostSide := by
  obtain ⟨u, hu, -⟩ := completes_compress (s := accepted .compress s) hfits
  rw [exec_of_ready rfl hr, show runUnits (unitsOf .compress) _ = _ from hu.runUnits] at h
  cases h
  have hside := runUnits_hostSide (i := .compress) hu.runUnits
  exact ⟨u, rfl, compressed_of_completes hu, hside⟩

/-! ### The container that DECOMPRESS finds -/

theorem BytesAt.congr {g g' : Nat → Byte} {a : Nat} {vs : List Byte} (h : BytesAt g a vs)
    (hsame : ∀ i < a + vs.length, g' i = g i) : BytesAt g' a vs := by
  rw [BytesAt, ← h, length_bytesFrom]
  exact List.map_congr_left fun j hj => hsame _ (by rw [List.mem_range] at hj; omega)

/-- A core whose SRC holds the output of another holds a container of the other's table and stream bits. -/
theorem holdsContainer_of_output {s u : State} (h : s.HoldsFrameBytes) (hlen : u.srcLen = s.dstLen)
    (hsrc : ∀ i < s.dstLen.toNat, u.srcByte i = s.dstByte i) : u.holdsContainer s.freq s.payBits := by
  have hnat := h.toNat_dstLen
  have hbits : s.payBits.length = s.bitLen.toNat := by simp [State.payBits]
  have hpay : s.payBytes.length = ceil8 s.bitLen.toNat := by simp [State.payBytes]
  have hbytes : BytesAt u.srcByte 0 s.frameBytes :=
    h.bytes.congr fun i hi => hsrc i (by rw [length_frameBytes, Nat.zero_add] at hi; omega)
  rw [State.frameBytes, bytesAt_append, length_headerBytes, Nat.zero_add] at hbytes
  obtain ⟨hheader, hpayload⟩ := hbytes
  rw [BytesAt, length_headerBytes] at hheader
  refine ⟨by rw [hlen, hnat, hbits]; rfl, by rw [hbits]; exact hheader, fun j hj => ?_⟩
  have hj8 : j / 8 < s.payBytes.length := by rw [hpay]; simp only [ceil8]; omega
  rw [hpayload.getElem hj8]
  simp [State.payBytes, State.payBits, State.payBit]

/-! ### The round trip -/

/-- The codes that COMPRESS writes are those of its table's tree. -/
theorem treeCode_of_encoded {s : State} (hs : s.Encoded) {b : Byte} (hb : b ∈ s.srcBytes) :
    (treeState s.freq).treeCode b (s.codeBits b) := by
  obtain ⟨c, hc⟩ := Option.isSome_iff_exists.1 (hs.coded b hb)
  have hbits : s.codeBits b = c.bits := by rw [State.codeBits, hc]; rfl
  rw [hbits]
  exact treeCode_of_walkTable (treeOk_of_holdsTreeOf (f := s.freq) ⟨rfl, rfl, rfl⟩) hs.tables.codes hc

theorem length_srcBytes (s : State) : s.srcBytes.length = s.srcLen.toNat := length_srcSlice s 0 _

/-- Where COUNT's table is empty, so is SRC. -/
theorem srcBytes_eq_nil_of_counted {s : State} (hs : s.Counted) (h : presentSymbols s.freq = []) : s.srcBytes = [] := by
  obtain ⟨hfits, hfreq⟩ := hs
  have hmax := s.cfg.nMax_le
  have hlen := length_srcBytes s
  refine List.eq_nil_iff_forall_not_mem.2 fun b hb => ?_
  have hcount := atSym_countBytes (bs := s.srcBytes) (by omega) b
  have habsent : atSym s.freq b = 0 := by
    by_contra hne
    exact List.not_mem_nil (h ▸ mem_presentSymbols.2 hne)
  rw [← hfreq, habsent] at hcount
  exact absurd (List.count_pos_iff.2 hb) (by rw [← hcount]; decide)

theorem getElem?_srcBytes {s : State} {i : Nat} (h : i < s.srcLen.toNat) : s.srcBytes[i]? = some (s.srcByte i) := by
  simp [State.srcBytes, State.srcSlice, h]

/-- SRC as a message of codes: each byte with its code. -/
def State.message (s : State) : List (Byte × List Bool) := s.srcBytes.map fun b => (b, s.codeBits b)

theorem length_message (s : State) : s.message.length = s.srcLen.toNat := by
  rw [State.message, List.length_map, length_srcBytes]

theorem flatMap_message (s : State) : s.message.flatMap Prod.snd = s.srcBytes.flatMap s.codeBits := by
  rw [State.message, List.flatMap_map]

/-- Settles O39: COMPRESS leaves a container of codes of its own table's tree, which DECOMPRESS decodes. -/
theorem decompressInvertsCompress : Obligations.DecompressInvertsCompress := by
  intro s t u hr hfits h hus hur hcfg hlen hsrc
  obtain ⟨c, rfl, ⟨hencoded, hpayload, houtput⟩, hside⟩ := exec_compress_next hr hfits h
  have hcs : c.cfg = s.cfg := congrArg HostSide.cfg hside
  have hsrcLen : c.srcLen = s.srcLen := congrArg HostSide.srcLen hside
  have hbytes : c.srcBytes = s.srcBytes := srcBytes_of_hostSide hside
  have hcont := holdsContainer_of_output houtput hlen hsrc
  rw [hpayload.bits, ← flatMap_message] at hcont
  have hsum : freqTotal c.freq ≤ u.cfg.nMax := by
    have htotal := freqTotal_countBytes_le c.srcBytes
    rw [length_srcBytes, hsrcLen] at htotal
    rw [hencoded.counted.2, hcfg]; exact htotal.trans hfits
  have hcodes : ∀ p ∈ c.message, (treeState c.freq).treeCode p.1 p.2 := fun p hp => by
    obtain ⟨b, hb, rfl⟩ := List.mem_map.1 hp
    exact treeCode_of_encoded hencoded hb
  have hnone : presentSymbols c.freq = [] → c.message = [] := fun hnil => by
    rw [State.message, srcBytes_eq_nil_of_counted hencoded.counted hnil]; rfl
  have hroom : u.srcLen.toNat ≤ u.bufBytes := by
    have hcap : u.bufBytes = c.bufBytes := by rw [State.bufBytes, hcfg, ← hcs]; rfl
    rw [hcap, hlen]; exact houtput.toNat_dstLen.trans_le houtput.room
  have hcount : c.message.length ≤ u.cfg.nMax := by rw [length_message, hsrcLen, hcfg]; exact hfits
  obtain ⟨v, hexec, hst, -, hdstLen, hdst, -⟩ :=
    decompressDecodesAContainer u c.freq c.message hus hur hsum hcodes hnone hcont hroom hcount
  refine ⟨v, hexec, hst, BitVec.eq_of_toNat_eq ?_, fun i hi => ?_⟩
  · rw [hdstLen, length_message, hsrcLen]
  · exact hdst i (s.srcByte i, c.codeBits (s.srcByte i))
      (by rw [State.message, hbytes, List.getElem?_map, getElem?_srcBytes hi]; rfl)

end Sys2Proof.Machine
end

section
/-! PROOFS. Two runs of COMPRESS or of DECOMPRESS over the same SRC[0..SRC_LEN) (R102): the stages make the same tables, the
same payload and the same output, byte for byte where these are valid. Settles O40. -/

namespace Sys2Proof.Machine

/-! ### The same results -/

/-- `s` and `t` have the same FREQ, lengths, valid payload and valid output (R12, R13). -/
structure State.SameData (s t : State) : Prop where
  freq : s.freq = t.freq
  bitLen : s.bitLen = t.bitLen
  dstLen : s.dstLen = t.dstLen
  pay : ∀ j < ceil8 s.bitLen.toNat, s.payByte j = t.payByte j
  dst : ∀ j < s.dstLen.toNat, s.dstByte j = t.dstByte j

/-- `s` and `t` have the same tree and the same codes. -/
structure State.SameCodes (s t : State) : Prop where
  node : s.node = t.node
  nodeCnt : s.nodeCnt = t.nodeCnt
  code : s.code = t.code

/-- Without a payload and an output only FREQ is left to compare. -/
theorem sameData_of_empty {s t : State} (hfreq : s.freq = t.freq) (hbits : s.bitLen = 0) (hbits' : t.bitLen = 0)
    (hlen : s.dstLen = 0) (hlen' : t.dstLen = 0) : s.SameData t := by
  refine ⟨hfreq, hbits.trans hbits'.symm, hlen.trans hlen'.symm, fun j hj => ?_, fun j hj => ?_⟩
  · rw [hbits] at hj; exact absurd hj (Nat.not_lt_zero j)
  · rw [hlen] at hj; exact absurd hj (Nat.not_lt_zero j)

/-- The tree and the codes of a table are functions of it (R127 (k), R141). -/
theorem sameCodes_of_tablesOf {s t : State} {f : Vector Word 256} (hs : s.TablesOf f) (ht : t.TablesOf f) :
    s.SameCodes t := by
  obtain ⟨-, ⟨hnode, -, hcnt⟩, hcodes⟩ := hs
  obtain ⟨-, ⟨hnode', -, hcnt'⟩, hcodes'⟩ := ht
  exact ⟨hnode.trans hnode'.symm, hcnt.trans hcnt'.symm, Option.some.inj (hcodes.symm.trans hcodes')⟩

/-- Two runs are alike: the same STATUS and ERR_INFO, data and codes. -/
structure State.SameRun (s t : State) : Prop where
  data : s.SameData t
  codes : s.SameCodes t
  status : s.status = t.status
  errInfo : s.errInfo = t.errInfo

namespace State.SameRun
variable {s t : State}

/-- What the sequencer writes keeps two runs alike where it writes the same STATUS and ERR_INFO. -/
theorem withSequencerOf (h : s.SameRun t) {s' t' : State} (hst : s'.status = t'.status) (hinfo : s'.errInfo = t'.errInfo) :
    (s.withSequencerOf s').SameRun (t.withSequencerOf t') := by
  obtain ⟨⟨hfreq, hbitLen, hdstLen, hpay, hdst⟩, ⟨hnode, hcnt, hcode⟩, -, -⟩ := h
  exact ⟨⟨hfreq, hbitLen, hdstLen, hpay, hdst⟩, ⟨hnode, hcnt, hcode⟩, hst, hinfo⟩

theorem enterPhase (h : s.SameRun t) (p : Phase) : (enterPhase p s).SameRun (enterPhase p t) :=
  h.withSequencerOf (s' := Machine.enterPhase p s) (t' := Machine.enterPhase p t)
    (by rw [enterPhase_status, enterPhase_status, h.status]) h.errInfo

theorem completed (h : s.SameRun t) : (releaseHidden (complete s)).SameRun (releaseHidden (complete t)) :=
  h.withSequencerOf (s' := releaseHidden (complete s)) (t' := releaseHidden (complete t))
    (by rw [releaseHidden_status, releaseHidden_status, complete_status, complete_status, h.status]) h.errInfo

theorem raised (h : s.SameRun t) (e : ErrCode) (w : Word) (p : Phase) :
    (releaseHidden (raise e w p s)).SameRun (releaseHidden (raise e w p t)) :=
  h.withSequencerOf (s' := releaseHidden (raise e w p s)) (t' := releaseHidden (raise e w p t)) rfl rfl

end State.SameRun

/-! ### COMPRESS -/

theorem lowBits_eight_inj {a b : Byte} (h : lowBits a 8 = lowBits b 8) : a = b := by
  refine BitVec.eq_of_getLsbD_eq fun i hi => ?_
  have hbit := List.map_inj_left.1 h (7 - i) (List.mem_range.2 (by omega))
  rwa [show 8 - 1 - (7 - i) = i by omega] at hbit

/-- Bytes with the same stream bits are the same (R43). -/
theorem bitsOfBytes_inj {g g' : Nat → Byte} {n : Nat} (h : bitsOfBytes g n = bitsOfBytes g' n) : ∀ j < n, g j = g' j := by
  induction n with
  | zero => exact nofun
  | succ n ih =>
    rw [bitsOfBytes_succ, bitsOfBytes_succ] at h
    obtain ⟨hinit, hlast⟩ := List.append_inj h (by rw [length_bitsOfBytes, length_bitsOfBytes])
    intro j hj
    rcases Nat.lt_succ_iff_lt_or_eq.1 hj with hj | rfl
    · exact ih hinit j hj
    · exact lowBits_eight_inj hlast

/-- What COMPRESS leaves is a function of SRC[0..SRC_LEN). -/
theorem same_of_compressed {s t : State} (hs : s.Compressed) (ht : t.Compressed) (hsrc : s.srcBytes = t.srcBytes) :
    s.SameData t ∧ s.SameCodes t := by
  obtain ⟨⟨hcounted, htables, -⟩, ⟨hlen, hpayload, -⟩, hout⟩ := hs
  obtain ⟨⟨hcounted', htables', -⟩, ⟨hlen', hpayload', -⟩, hout'⟩ := ht
  have hfreq : s.freq = t.freq := by rw [hcounted.2, hcounted'.2, hsrc]
  have hcodes : s.SameCodes t := sameCodes_of_tablesOf (hfreq ▸ htables) htables'
  have hbitLen : s.bitLen = t.bitLen := BitVec.eq_of_toNat_eq (by rw [hlen, hlen', hcodes.code, hsrc])
  have hcodeBits : s.codeBits = t.codeBits := funext fun b => by rw [State.codeBits, hcodes.code]; rfl
  have hpay : ∀ j < ceil8 s.bitLen.toNat, s.payByte j = t.payByte j :=
    bitsOfBytes_inj (by rw [hpayload, hsrc, hcodeBits, ← hpayload', hbitLen])
  have hpayBytes : s.payBytes = t.payBytes := by
    rw [State.payBytes, State.payBytes, ← hbitLen]
    exact List.map_congr_left fun j hj => hpay j (List.mem_range.1 hj)
  have hframe : s.frameBytes = t.frameBytes := by
    rw [State.frameBytes, State.frameBytes, hfreq, hbitLen, hpayBytes]
  have hframeLen : s.frameLen = t.frameLen := by rw [← length_frameBytes, hframe, length_frameBytes]
  refine ⟨⟨hfreq, hbitLen, by rw [hout.length, hout'.length, hframeLen], hpay, fun j hj => ?_⟩, hcodes⟩
  rw [hout.toNat_dstLen, ← length_frameBytes] at hj
  have hbyte := hout.bytes.getElem hj
  have hbyte' := hout'.bytes.getElem (hframe ▸ hj)
  rw [Nat.zero_add] at hbyte hbyte'
  rw [hbyte, hbyte']
  simp only [hframe]

/-! ### PARSE, BUILD and WALK -/

theorem parseChecks_enterPhase (p : Phase) (s : State) : parseChecks (enterPhase p s) = parseChecks s :=
  parseChecks_congr (s := s) (t := enterPhase p s) (fun _ _ => rfl) rfl rfl

theorem parseUnit_of_error {s : State} {e : ErrCode} {info : Nat} (h : parseChecks s = .error (e, info)) :
    parseUnit s = .raised e (BitVec.ofNat 32 info) { s with freq := zeroFreq, bitLen := 0 } := by
  rw [parseUnit, h]

/-- What PARSE loads of a container that passes its checks (R186). -/
theorem parseUnit_of_ok {s : State} {c : Parsed} (h : parseChecks s = .ok c) :
    ∃ t, parseUnit s = .done t ∧ t.freq = loadEntries c.entries ∧ t.bitLen = BitVec.ofNat 32 c.bits ∧
      ∀ j < ceil8 c.bits, t.payByte j = s.srcByte (c.hdr + j) := by
  refine ⟨_, by rw [parseUnit, h], rfl, rfl, fun j hj => ?_⟩
  have hbytes := bytesAt_storeList s.pay 0 (s.srcSlice c.hdr (ceil8 c.bits)) (Config.powerOnByte s.resetEra .pay)
  have hbyte := hbytes.getElem (j := j) (by rwa [length_srcSlice])
  have hsrc : (s.srcSlice c.hdr (ceil8 c.bits))[j]'(by rwa [length_srcSlice]) = s.srcByte (c.hdr + j) := by
    simp [State.srcSlice]
  rw [Nat.zero_add, hsrc] at hbyte
  exact hbyte

theorem Writes.cfg {s t : State} {p : Phase} (h : Writes s t p) : t.cfg = s.cfg := by
  cases p <;> exact (congrArg State.cfg h).trans rfl

/-- What PARSE, BUILD and WALK leave of a container in the SRC of `s` that passes PARSE's checks. -/
structure State.LoadedFrom (w s : State) (c : Parsed) : Prop where
  tables : w.TablesOf (loadEntries c.entries)
  bitLen : w.bitLen = BitVec.ofNat 32 c.bits
  pay : ∀ j < ceil8 c.bits, w.payByte j = s.srcByte (c.hdr + j)
  cfg : w.cfg = s.cfg
  dstLen : w.dstLen = s.dstLen
  status : w.status = { s.status with phase := .walk }
  errInfo : w.errInfo = s.errInfo

/-- DECOMPRESS of a container that passes PARSE's checks comes to UNPACK with the container loaded. -/
theorem runUnits_decompress_parsed {s : State} {c : Parsed} (h : parseChecks s = .ok c) :
    ∃ w, w.LoadedFrom s c ∧ runUnits (unitsOf .decompress) s = runUnits [(.unpack, unpackUnit)] w := by
  obtain ⟨u, hu, hfreq, hbitLen, hpay⟩ := parseUnit_of_ok ((parseChecks_enterPhase .parse s).trans h)
  obtain ⟨v, hv⟩ : ∃ v, buildUnit (enterPhase .build u) = .done v := ⟨_, rfl⟩
  have hloaded := loaded_of_buildUnit (s := enterPhase .build u) hv
  obtain ⟨w, hw, -⟩ := walkUnit_done (s := enterPhase .walk v) (treeOk_of_holdsTreeOf hloaded.tree)
  have hparse := (unitOf_writes .parse (enterPhase .parse s)).of_done hu
  have hbuild := (unitOf_writes .build (enterPhase .build u)).of_done hv
  have hwalk := (unitOf_writes .walk (enterPhase .walk v)).of_done hw
  refine ⟨w, ?_, (runUnits_done hu).trans ((runUnits_done hv).trans (runUnits_done hw))⟩
  exact {
    tables := hfreq ▸ tablesOf_of_walkUnit (s := enterPhase .walk v) hloaded.freq hloaded.tree hw
    bitLen := (hwalk.payload (by decide)).2.trans ((hbuild.payload (by decide)).2.trans hbitLen)
    pay := fun j hj => (hwalk.payByte (by decide) j).trans ((hbuild.payByte (by decide) j).trans (hpay j hj))
    cfg := hwalk.cfg.trans (hbuild.cfg.trans hparse.cfg)
    dstLen := (hwalk.dstLen (by decide)).trans ((hbuild.dstLen (by decide)).trans (hparse.dstLen (by decide)))
    status := by
      rw [hwalk.status.1, enterPhase_status, hbuild.status.1, enterPhase_status, hparse.status.1, enterPhase_status]
    errInfo := hwalk.status.2.trans (hbuild.status.2.trans hparse.status.2) }

/-! ### UNPACK -/

/-- Two runs of the unpacker are at the same node, and have stored the same symbols. -/
def Unpacker.SameOutput (u v : Unpacker) : Prop :=
  v.cur = u.cur ∧ v.upO = u.upO ∧ ∀ a < u.upO, ∃ b, u.dst.lookup a = some b ∧ v.dst.lookup a = some b

/-- Two loops end alike: both without an error or with the same one, in states that `R` holds of. -/
def LoopEnd.Rel {σ : Type} (R : σ → σ → Prop) : LoopEnd σ → LoopEnd σ → Prop
  | .fine x, .fine y => R x y
  | .raised e i x, .raised e' i' y => e' = e ∧ i' = i ∧ R x y
  | _, _ => False

namespace LoopEnd.Rel
variable {σ : Type} {R : σ → σ → Prop} {r r' : LoopEnd σ} {x : σ}

theorem of_fine (h : r.Rel R r') (hr : r = .fine x) : ∃ y, r' = .fine y ∧ R x y := by
  subst hr
  cases r' with
  | fine y => exact ⟨y, rfl, h⟩
  | raised => cases h

theorem of_raised {e : ErrCode} {i : Nat} (h : r.Rel R r') (hr : r = .raised e i x) : ∃ y, r' = .raised e i y ∧ R x y := by
  subst hr
  cases r' with
  | raised e' i' y => obtain ⟨rfl, rfl, h⟩ := h; exact ⟨y, rfl, h⟩
  | fine => cases h

end LoopEnd.Rel

section Loop
variable {nMax j : Nat} {nodeAt : Nat → Node} {single : Bool} {root : BitVec 9} {u v : Unpacker}

theorem emit_sameOutput (h : u.SameOutput v) (b : Byte) : (emit nMax j u b).Rel Unpacker.SameOutput (emit nMax j v b) := by
  obtain ⟨hcur, hupO, hdst⟩ := id h
  simp only [emit, hupO]
  split
  · exact ⟨rfl, rfl, h⟩
  · refine ⟨hcur, rfl, fun a ha => ?_⟩
    rcases Nat.lt_succ_iff_lt_or_eq.1 ha with ha | rfl
    · rw [Memory.lookup_store_ne _ _ ha.ne, Memory.lookup_store_ne _ _ ha.ne]; exact hdst a ha
    · exact ⟨b, Memory.lookup_store_same _ _ _, Memory.lookup_store_same _ _ _⟩

theorem unpackBit_sameOutput (h : u.SameOutput v) (bit : Bool) :
    (unpackBit nMax j nodeAt single root u bit).Rel Unpacker.SameOutput (unpackBit nMax j nodeAt single root v bit) := by
  obtain ⟨hcur, hstored⟩ := id h
  cases single
  · simp only [unpackBit, unpackMatch, hcur, Bool.false_eq_true, if_false]
    generalize (if bit then (nodeAt u.cur.toNat).high else (nodeAt u.cur.toNat).low) = next
    have hmoved : Unpacker.SameOutput { u with cur := next } { v with cur := next } := ⟨rfl, hstored⟩
    split
    · next sym _ _ =>
      have hemit := emit_sameOutput (nMax := nMax) (j := j) hmoved sym
      split
      · next x hx =>
        obtain ⟨y, hy, -, hout⟩ := hemit.of_fine hx
        rw [hy]; exact ⟨rfl, hout⟩
      · next e i x hx =>
        obtain ⟨y, hy, hout⟩ := hemit.of_raised hx
        rw [hy]; exact ⟨rfl, rfl, hout⟩
    · exact hmoved
  · cases bit
    · exact emit_sameOutput h _
    · exact ⟨rfl, rfl, h⟩

/-- What the unpacker stores and how it ends do not depend on the DST that it finds (R102). -/
theorem unpackLoop_sameOutput (h : u.SameOutput v) (bits : List Bool) :
    (unpackLoop nMax nodeAt single root j bits u).Rel Unpacker.SameOutput
      (unpackLoop nMax nodeAt single root j bits v) := by
  induction bits generalizing j u v with
  | nil =>
    simp only [unpackLoop, h.1]
    split
    · exact ⟨rfl, rfl, h⟩
    · exact h
  | cons bit bits ih =>
    have hbit := unpackBit_sameOutput (nMax := nMax) (j := j) (nodeAt := nodeAt) (single := single) (root := root) h bit
    simp only [unpackLoop]
    split
    · next x hx =>
      obtain ⟨y, hy, hout⟩ := hbit.of_fine hx
      rw [hy]; exact ih hout
    · next e i x hx =>
      obtain ⟨y, hy, hout⟩ := hbit.of_raised hx
      rw [hy]; exact ⟨rfl, rfl, hout⟩

end Loop

/-- UNPACK over the same data and the same tree, and any DST, does the same (R102). -/
theorem unpackUnit_sameRun {s t : State} (h : s.SameRun t) (htree : t.treeOk) (hcfg : s.cfg = t.cfg) (h0 : s.dstLen = 0) :
    (unpackUnit s).Rel State.SameRun (unpackUnit t) := by
  obtain ⟨⟨hfreq, hbitLen, hdstLen, hpay, -⟩, ⟨hnode, hcnt, hcode⟩, hst, hinfo⟩ := h
  have hnone : ∀ u v : State, u.dstLen = 0 → ∀ j < u.dstLen.toNat, u.dstByte j = v.dstByte j := fun u v hu j hj => by
    rw [hu] at hj; exact absurd hj (Nat.not_lt_zero j)
  simp only [unpackUnit, ← hbitLen, ← hcnt]
  split
  · exact ⟨⟨hfreq, rfl, rfl, hpay, hnone _ _ rfl⟩, ⟨hnode, rfl, hcode⟩, hst, hinfo⟩
  · split
    · exact ⟨rfl, rfl, ⟨hfreq, rfl, hdstLen, hpay, hnone _ _ h0⟩, ⟨hnode, rfl, hcode⟩, hst, hinfo⟩
    · next hne =>
      have hbits : s.payBits = t.payBits := by
        rw [State.payBits, State.payBits, ← hbitLen]
        refine List.map_congr_left fun j hj => ?_
        rw [List.mem_range] at hj
        rw [State.payBit, hpay (j / 8) (by simp only [ceil8]; omega)]; rfl
      have hout : (unpackRun s).Rel Unpacker.SameOutput (unpackRun t) := by
        rw [unpackRun_congr htree (hcnt ▸ hne) hnode hcnt hcfg hbits, unpackRun]
        exact unpackLoop_sameOutput (u := ⟨t.root, 0, s.dst⟩) (v := ⟨t.root, 0, t.dst⟩)
          ⟨rfl, rfl, fun a ha => absurd ha (Nat.not_lt_zero a)⟩ _
      split
      · next x hx =>
        obtain ⟨y, hy, -, hupO, hdst⟩ := hout.of_fine hx
        rw [hy]
        refine ⟨⟨hfreq, rfl, by rw [hupO], hpay, fun j hj => ?_⟩, ⟨hnode, rfl, hcode⟩, hst, hinfo⟩
        obtain ⟨b, hb, hb'⟩ := hdst j (hj.trans_le (Nat.mod_le _ _))
        simp only [State.dstByte, hb, hb', Option.getD_some]
      · next e i x hx =>
        obtain ⟨y, hy, -⟩ := hout.of_raised hx
        rw [hy]
        exact ⟨rfl, rfl, ⟨hfreq, rfl, hdstLen, hpay, hnone _ _ h0⟩, ⟨hnode, rfl, hcode⟩, hst, hinfo⟩

theorem runUnits_unpack_sameRun {s t u v : State} (h : s.SameRun t) (htree : t.treeOk) (hcfg : s.cfg = t.cfg)
    (h0 : s.dstLen = 0) (hu : runUnits [(.unpack, unpackUnit)] s = .next u)
    (hv : runUnits [(.unpack, unpackUnit)] t = .next v) : u.SameRun v := by
  have hrel := unpackUnit_sameRun (h.enterPhase .unpack) htree hcfg h0
  rcases runUnits_cons_next hu with ⟨x, hx, hend⟩ | ⟨e, w, x, hx, rfl⟩
  · obtain ⟨y, hy, hsame⟩ := hrel.of_done hx
    rw [runUnits_done hy] at hv
    cases hend; cases hv
    exact hsame.completed
  · obtain ⟨y, hy, hsame⟩ := hrel.of_raised hx
    rw [runUnits_raised hy] at hv
    cases hv
    exact hsame.raised e w .unpack

/-! ### Two runs -/

/-- STATUS as acceptance leaves it is the same for every core that accepts commands (R92). -/
theorem accepted_status {i : Instr} {s : State} (hs : s.statusOk = true) (hr : s.ready = true) :
    (accepted i s).status = ⟨true, false, .noError, (phasesOf i).headD .idle, .idle⟩ := by
  obtain ⟨-, hst, -⟩ := status_of_ready hs hr
  rw [accepted, accept_status, hst]

/-- PARSE, BUILD and WALK of the same container that passes PARSE's checks leave the same. -/
theorem sameRun_of_loadedFrom {s t u v : State} {c : Parsed} (hs : parseChecks s = .ok c) (hu : u.LoadedFrom s c)
    (hv : v.LoadedFrom t c) (hsrc : ∀ i < s.srcLen.toNat, t.srcByte i = s.srcByte i) (h0 : s.dstLen = 0) (h0' : t.dstLen = 0)
    (hst : s.status = t.status) (hinfo : s.errInfo = t.errInfo) : u.SameRun v := by
  obtain ⟨-, -, hlen⟩ := parseChecks_ok hs
  have hbits : ceil8 u.bitLen.toNat ≤ ceil8 c.bits := by
    have hle : (BitVec.ofNat 32 c.bits).toNat ≤ c.bits := Nat.mod_le _ _
    rw [hu.bitLen]; simp only [ceil8]; omega
  have hdata : u.SameData v := {
    freq := hu.tables.freq.trans hv.tables.freq.symm
    bitLen := hu.bitLen.trans hv.bitLen.symm
    dstLen := by rw [hu.dstLen, hv.dstLen, h0, h0']
    pay := fun j hj => by
      have hj' := hj.trans_le hbits
      rw [hu.pay j hj', hv.pay j hj', hsrc (c.hdr + j) (by omega)]
    dst := fun j hj => by rw [hu.dstLen, h0] at hj; exact absurd hj (Nat.not_lt_zero j) }
  exact ⟨hdata, sameCodes_of_tablesOf hu.tables hv.tables, by rw [hu.status, hv.status, hst],
    by rw [hu.errInfo, hv.errInfo, hinfo]⟩

/-- COMPRESS of an input within N_MAX finishes (R100). -/
theorem status_of_compress {s t : State} (hs : s.statusOk = true) (hr : s.ready = true)
    (hfits : s.srcLen.toNat ≤ s.cfg.nMax) (h : exec .compress s = .next t) :
    t.status = Status.finished ∧ t.errInfo = 0 := by
  obtain ⟨t', h', hst, hinfo, -⟩ := compressNeverFails s hs hr hfits
  cases h.symm.trans h'
  exact ⟨hst, hinfo⟩

/-- DECOMPRESS of a container that fails one of PARSE's checks (R190, R205). -/
theorem exec_decompress_of_error {s t : State} {e : ErrCode} {info : Nat} (hr : s.ready = true)
    (hc : parseChecks (accepted .decompress s) = .error (e, info)) (h : exec .decompress s = .next t) :
    t = releaseHidden (raise e (BitVec.ofNat 32 info) .parse
      { enterPhase .parse (accepted .decompress s) with freq := zeroFreq, bitLen := 0 }) := by
  have hparse := parseUnit_of_error ((parseChecks_enterPhase .parse _).trans hc)
  rw [exec_of_first_raised (i := .decompress) rfl hr hparse] at h
  cases h; rfl

/-- Two runs end with the same error of PARSE, and with the same data. -/
def State.SameParseError (s t : State) : Prop :=
  s.SameData t ∧ s.status = t.status ∧ s.errInfo = t.errInfo ∧ s.status.ephase = .parse

section TwoRuns
variable {s₁ s₂ t₁ t₂ : State} (hr₁ : s₁.ready = true) (hr₂ : s₂.ready = true) (hs₁ : s₁.statusOk = true)
  (hs₂ : s₂.statusOk = true) (hcfg : s₁.cfg = s₂.cfg) (hlen : s₁.srcLen = s₂.srcLen)
  (hsrc : s₁.srcBytes = s₂.srcBytes)
include hr₁ hr₂ hs₁ hs₂ hcfg hlen hsrc

theorem sameRun_of_compress (hfits : s₁.srcLen.toNat ≤ s₁.cfg.nMax) (h₁ : exec .compress s₁ = .next t₁)
    (h₂ : exec .compress s₂ = .next t₂) : t₁.SameRun t₂ := by
  have hfits₂ : s₂.srcLen.toNat ≤ s₂.cfg.nMax := hlen ▸ hcfg ▸ hfits
  obtain ⟨hst₁, hinfo₁⟩ := status_of_compress hs₁ hr₁ hfits h₁
  obtain ⟨hst₂, hinfo₂⟩ := status_of_compress hs₂ hr₂ hfits₂ h₂
  obtain ⟨c₁, rfl, hc₁, hside₁⟩ := exec_compress_next hr₁ hfits h₁
  obtain ⟨c₂, rfl, hc₂, hside₂⟩ := exec_compress_next hr₂ hfits₂ h₂
  have hbytes : c₁.srcBytes = c₂.srcBytes := by
    rw [srcBytes_of_hostSide hside₁, hsrc, srcBytes_of_hostSide hside₂]
  obtain ⟨⟨hfreq, hbitLen, hdstLen, hpay, hdst⟩, ⟨hnode, hcnt, hcode⟩⟩ := same_of_compressed hc₁ hc₂ hbytes
  exact ⟨⟨hfreq, hbitLen, hdstLen, hpay, hdst⟩, ⟨hnode, hcnt, hcode⟩, hst₁.trans hst₂.symm,
    hinfo₁.trans hinfo₂.symm⟩

/-- PARSE raises in both runs of DECOMPRESS or in none. -/
theorem same_of_decompress (h₁ : exec .decompress s₁ = .next t₁) (h₂ : exec .decompress s₂ = .next t₂) :
    t₁.SameParseError t₂ ∨ t₁.SameRun t₂ := by
  have hbytes : ∀ i < (accepted .decompress s₁).srcLen.toNat,
      (accepted .decompress s₂).srcByte i = (accepted .decompress s₁).srcByte i :=
    srcByte_of_srcBytes hlen.symm hsrc.symm
  have hchecks : parseChecks (accepted .decompress s₂) = parseChecks (accepted .decompress s₁) :=
    parseChecks_congr hbytes hlen.symm hcfg.symm
  rcases hc : parseChecks (accepted .decompress s₁) with ⟨e, info⟩ | c
  · obtain rfl := exec_decompress_of_error hr₁ hc h₁
    obtain rfl := exec_decompress_of_error hr₂ (hchecks.trans hc) h₂
    exact .inl ⟨sameData_of_empty rfl rfl rfl rfl rfl, rfl, rfl, rfl⟩
  · obtain ⟨w₁, hw₁, hrun₁⟩ := runUnits_decompress_parsed hc
    obtain ⟨w₂, hw₂, hrun₂⟩ := runUnits_decompress_parsed (hchecks.trans hc)
    rw [exec_of_ready rfl hr₁, hrun₁] at h₁
    rw [exec_of_ready rfl hr₂, hrun₂] at h₂
    obtain ⟨-, -, hinfo₁⟩ := status_of_ready hs₁ hr₁
    obtain ⟨-, -, hinfo₂⟩ := status_of_ready hs₂ hr₂
    have hsame := sameRun_of_loadedFrom hc hw₁ hw₂ hbytes rfl rfl
      ((accepted_status hs₁ hr₁).trans (accepted_status hs₂ hr₂).symm) (hinfo₁.trans hinfo₂.symm)
    exact .inr (runUnits_unpack_sameRun hsame (treeOk_of_holdsTreeOf hw₂.tables.tree)
      (hw₁.cfg.trans (hcfg.trans hw₂.cfg.symm)) hw₁.dstLen h₁ h₂)

end TwoRuns

/-- Settles O40: two runs are alike, but for the tree and the codes where PARSE raised. -/
theorem macroResultsDependOnSourceAlone : Obligations.MacroResultsDependOnSourceAlone := by
  intro i s₁ s₂ t₁ t₂ hi hr₁ hr₂ hs₁ hs₂ hcfg hlen hsrc h₁ h₂
  have hsame : t₁.SameParseError t₂ ∨ t₁.SameRun t₂ := by
    rcases hi with ⟨rfl, hfits⟩ | rfl
    · exact .inr (sameRun_of_compress hr₁ hr₂ hs₁ hs₂ hcfg hlen hsrc hfits h₁ h₂)
    · exact same_of_decompress hr₁ hr₂ hs₁ hs₂ hcfg hlen hsrc h₁ h₂
  rcases hsame with ⟨hdata, hst, hinfo, hparse⟩ | ⟨hdata, ⟨hnode, hcnt, hcode⟩, hst, hinfo⟩
  · exact ⟨hst, hinfo, hdata.freq, hdata.bitLen, hdata.dstLen, hdata.pay, hdata.dst, fun hne => absurd hparse hne⟩
  · exact ⟨hst, hinfo, hdata.freq, hdata.bitLen, hdata.dstLen, hdata.pay, hdata.dst, fun _ => ⟨hnode, hcnt, hcode⟩⟩

end Sys2Proof.Machine
end

section
/-! PROOFS. What COUNT's table says of the bytes counted (R111, R112): its present symbols are the byte values that occur,
and its entries sum to the number of bytes. Settles O9. -/

namespace Sys2Proof.Machine

section CountedBytes
variable {bs : List Byte} (hlen : bs.length < 2 ^ 32)
include hlen

/-- A symbol is present in the counter's table iff it occurs (R112 (b)). -/
theorem mem_presentSymbols_countBytes {b : Byte} : b ∈ presentSymbols (countBytes bs) ↔ b ∈ bs := by
  rw [mem_presentSymbols, ← List.count_pos_iff, ← atSym_countBytes hlen b, Nat.pos_iff_ne_zero]
  exact BitVec.toNat_ne

theorem toFinset_presentSymbols_countBytes : (presentSymbols (countBytes bs)).toFinset = bs.toFinset :=
  Finset.ext fun b => by rw [List.mem_toFinset, List.mem_toFinset, mem_presentSymbols_countBytes hlen]

/-- There are as many present symbols as distinct byte values (R112 (c)). -/
theorem length_presentSymbols_countBytes : (presentSymbols (countBytes bs)).length = bs.toFinset.card := by
  rw [← toFinset_presentSymbols_countBytes hlen, List.toFinset_card_of_nodup (nodup_presentSymbols _)]

/-- The counter's entries sum to the number of bytes counted (R112 (a)). -/
theorem freqTotal_countBytes : freqTotal (countBytes bs) = bs.length := by
  calc freqTotal (countBytes bs)
      = ((presentSymbols (countBytes bs)).map fun b => (atSym (countBytes bs) b).toNat).sum := by
        rw [← freqSum_tableEntries, freqSum, tableEntries, List.map_map]; rfl
    _ = ((presentSymbols (countBytes bs)).map fun b => bs.count b).sum := by simp only [atSym_countBytes hlen]
    _ = ∑ b ∈ bs.toFinset, bs.count b := by
        rw [← toFinset_presentSymbols_countBytes hlen, List.sum_toFinset _ (nodup_presentSymbols _)]
    _ = bs.length := List.sum_toFinset_count_eq_length bs

end CountedBytes

/-- The state that COUNT's unit leaves where SRC_LEN is at most N_MAX. -/
theorem countUnit_of_fits {s : State} (h : s.srcLen.toNat ≤ s.cfg.nMax) :
    countUnit s = .done { s with freq := countBytes s.srcBytes, hidden := { s.hidden with cntIdx := s.srcLen } } :=
  if_neg (not_lt.2 h)

/-- Settles O9: COUNT's one unit completes, and its table counts the bytes of SRC. -/
theorem countFillsTheTable : Obligations.CountFillsTheTable := by
  intro s hs hr hfits
  have hunit := countUnit_of_fits (s := enterPhase .count (accepted .count s)) hfits
  obtain ⟨hexec, hst, hinfo⟩ := exec_of_completes (i := .count) rfl hs hr ⟨_, hunit, rfl⟩
  have hmax := s.cfg.nMax_le
  have hlen : s.srcBytes.length < 2 ^ 32 := by rw [length_srcBytes]; omega
  have hcount : ∀ b, (atSym (countBytes s.srcBytes) b).toNat = s.srcBytes.count b := atSym_countBytes hlen
  exact ⟨_, hexec, hcount, (freqTotal_countBytes hlen).trans (length_srcBytes s),
    fun b => by rw [← List.count_pos_iff, ← hcount]; rfl, length_presentSymbols_countBytes hlen, hst, hinfo⟩

end Sys2Proof.Machine
end

section
/-! PROOFS. The greedy exchange behind Huffman's algorithm, on weights and lengths alone. Bit strings of which none begins
another meet the Kraft inequality; and of weighted lengths that meet it, the two lightest can be made the longest and joined
into one, one bit shorter, without more bits in all. For O20 and O21. -/

namespace Sys2Proof.Machine

/-! ### The Kraft sum -/

/-- The Kraft sum of code lengths (R144 (f)). -/
noncomputable def kraftSum (ls : Multiset Nat) : ℝ := (ls.map fun l => (1 / 2 : ℝ) ^ l).sum

@[simp] theorem kraftSum_cons (l : Nat) (ls : Multiset Nat) : kraftSum (l ::ₘ ls) = (1 / 2) ^ l + kraftSum ls := by
  simp [kraftSum]

/-- Words of which none begins another, and none is empty, can be told apart in a concatenation. -/
theorem uniquelyDecodable_of_prefixFree {α : Type} {S : Set (List α)} (hnil : [] ∉ S)
    (hfree : ∀ v ∈ S, ∀ w ∈ S, v <+: w → v = w) : InformationTheory.UniquelyDecodable S := by
  have hne : ∀ {v : List α} {vs : List (List α)}, v ∈ S → (v :: vs).flatten ≠ [] := fun hv h => by
    rw [List.flatten_cons, List.append_eq_nil_iff] at h
    exact hnil (h.1 ▸ hv)
  intro vs
  induction vs with
  | nil =>
    intro ws _ hws h
    cases ws with
    | nil => rfl
    | cons w ws => exact absurd h.symm (hne (hws w List.mem_cons_self))
  | cons v vs ih =>
    intro ws hvs hws h
    have hv := hvs v List.mem_cons_self
    cases ws with
    | nil => exact absurd h (hne hv)
    | cons w ws =>
      have hw := hws w List.mem_cons_self
      rw [List.flatten_cons, List.flatten_cons] at h
      have hvw : v = w := by
        rcases List.prefix_or_prefix_of_prefix (h ▸ List.prefix_append v vs.flatten)
          (List.prefix_append w ws.flatten) with hp | hp
        · exact hfree v hv w hw hp
        · exact (hfree w hw v hv hp).symm
      subst hvw
      rw [ih ws (fun u hu => hvs u (List.mem_cons_of_mem _ hu)) (fun u hu => hws u (List.mem_cons_of_mem _ hu))
        (List.append_cancel_left h)]

/-- Bit strings for two symbols or more, of which none begins another, meet the Kraft inequality. -/
theorem kraftSum_le_of_prefixFree {bs : List Byte} (hbs : bs.Nodup) (htwo : 2 ≤ bs.length) {w : Byte → List Bool}
    (hfree : ∀ a ∈ bs, ∀ b ∈ bs, a ≠ b → ¬ w a <+: w b) :
    kraftSum (bs.map fun b => (w b).length : List Nat) ≤ 1 := by
  have hword : ∀ a ∈ bs.toFinset, ∀ b ∈ bs.toFinset, w a <+: w b → a = b := fun a ha b hb h => by
    by_contra hne
    exact hfree a (List.mem_toFinset.1 ha) b (List.mem_toFinset.1 hb) hne h
  have hdecodable : InformationTheory.UniquelyDecodable (bs.toFinset.image w : Set (List Bool)) := by
    rw [Finset.coe_image]
    refine uniquelyDecodable_of_prefixFree ?_ ?_
    · rintro ⟨a, ha, hnil⟩
      obtain ⟨b, hb, hne⟩ := Finset.exists_mem_ne (by rw [List.toFinset_card_of_nodup hbs]; exact htwo) a
      exact hne (hword a ha b hb (hnil ▸ List.nil_prefix)).symm
    · rintro _ ⟨a, ha, rfl⟩ _ ⟨b, hb, rfl⟩ h
      exact congrArg w (hword a ha b hb h)
  have hinj : Set.InjOn w bs.toFinset := fun a ha b hb h => hword a ha b hb (h ▸ List.prefix_rfl)
  have hkraft := InformationTheory.kraft_mcmillan_inequality hdecodable
  rw [Finset.sum_image hinj, List.sum_toFinset _ hbs, Fintype.card_bool] at hkraft
  simpa [kraftSum, Function.comp_def] using hkraft

/-- Over lengths of at most `m` the Kraft sum is a whole number of times 2^-m. -/
theorem exists_kraftSum_mul {m : Nat} {ls : Multiset Nat} (hls : ∀ l ∈ ls, l ≤ m) :
    ∃ n : Nat, kraftSum ls * 2 ^ m = n := by
  induction ls using Multiset.induction_on with
  | empty => exact ⟨0, by simp [kraftSum]⟩
  | cons l ls ih =>
    obtain ⟨n, hn⟩ := ih fun l hl => hls l (Multiset.mem_cons_of_mem hl)
    refine ⟨2 ^ (m - l) + n, ?_⟩
    have hl : (1 / 2 : ℝ) ^ l * 2 ^ m = 2 ^ (m - l) := by
      rw [one_div, inv_pow, mul_comm, ← pow_sub₀ _ two_ne_zero (hls l (Multiset.mem_cons_self _ _))]
    rw [kraftSum_cons, add_mul, hn, hl]; push_cast; rfl

/-- The longest length and a longest of the others can be joined, one bit above the latter. -/
theorem kraftSum_join_le {l m : Nat} {ls : Multiset Nat} (hls : ∀ k ∈ ls, k ≤ m)
    (h : kraftSum (l ::ₘ m ::ₘ ls) ≤ 1) : ∃ n, m = n + 1 ∧ kraftSum (n ::ₘ ls) ≤ 1 := by
  obtain ⟨q, hq⟩ := exists_kraftSum_mul hls
  have hpos : (0 : ℝ) < 2 ^ m := by positivity
  have hm : (1 / 2 : ℝ) ^ m * 2 ^ m = 1 := by rw [← mul_pow]; norm_num
  have hroom : q + 2 ≤ 2 ^ m := by
    have hlt : ((q + 1 : Nat) : ℝ) < (2 ^ m : Nat) := by
      push_cast
      calc (q : ℝ) + 1 = ((1 / 2) ^ m + kraftSum ls) * 2 ^ m := by rw [add_mul, hm, hq, add_comm]
        _ < kraftSum (l ::ₘ m ::ₘ ls) * 2 ^ m := by
          rw [kraftSum_cons, kraftSum_cons]
          exact mul_lt_mul_of_pos_right (lt_add_of_pos_left _ (by positivity)) hpos
        _ ≤ 2 ^ m := mul_le_of_le_one_left hpos.le h
    exact Nat.cast_lt.1 hlt
  cases m with
  | zero => omega
  | succ n =>
    refine ⟨n, rfl, le_of_mul_le_mul_right ?_ hpos⟩
    have hn : (1 / 2 : ℝ) ^ n * 2 ^ (n + 1) = 2 := by rw [pow_succ, ← mul_assoc, ← mul_pow]; norm_num
    rw [kraftSum_cons, add_mul, hn, hq, one_mul, add_comm]
    exact_mod_cast hroom

/-! ### The exchange -/

/-- The bits that weights take, each with its length. -/
def totalBits (p : Multiset (Nat × Nat)) : Nat := (p.map fun e => e.1 * e.2).sum

@[simp] theorem totalBits_cons (e : Nat × Nat) (p : Multiset (Nat × Nat)) :
    totalBits (e ::ₘ p) = e.1 * e.2 + totalBits p := by
  simp [totalBits]

/-- A lightest weight can be given a longest length: exchanged with another, without more bits in all. -/
theorem exists_longest_first {x l : Nat} {p : Multiset (Nat × Nat)} (hx : ∀ e ∈ p, x ≤ e.1) :
    ∃ m q, q.map Prod.fst = p.map Prod.fst ∧ m ::ₘ q.map Prod.snd = l ::ₘ p.map Prod.snd ∧
      (∀ e ∈ q, e.2 ≤ m) ∧ x * m + totalBits q ≤ x * l + totalBits p := by
  by_cases hl : ∀ e ∈ p, e.2 ≤ l
  · exact ⟨l, p, rfl, rfl, hl, le_rfl⟩
  · push Not at hl
    obtain ⟨e₀, he₀, hlt₀⟩ := hl
    obtain ⟨e, he, hmax⟩ := Finset.exists_max_image p.toFinset Prod.snd ⟨e₀, Multiset.mem_toFinset.2 he₀⟩
    rw [Multiset.mem_toFinset] at he
    have hlong : ∀ d ∈ p, d.2 ≤ e.2 := fun d hd => hmax d (Multiset.mem_toFinset.2 hd)
    have hle : l ≤ e.2 := hlt₀.le.trans (hlong e₀ he₀)
    have hxe := hx e he
    obtain ⟨r, rfl⟩ := Multiset.exists_cons_of_mem he
    refine ⟨e.2, (e.1, l) ::ₘ r, by simp, by simp [Multiset.cons_swap], ?_, ?_⟩
    · exact Multiset.forall_mem_cons.2 ⟨hle, fun d hd => hlong d (Multiset.mem_cons_of_mem hd)⟩
    · have hswap := mul_add_mul_le_mul_add_mul hxe hle
      simp only [totalBits_cons]
      omega

theorem exists_of_map_fst_eq_cons {x : Nat} {r : Multiset Nat} {p : Multiset (Nat × Nat)}
    (h : p.map Prod.fst = x ::ₘ r) : ∃ l q, p = (x, l) ::ₘ q ∧ q.map Prod.fst = r := by
  obtain ⟨⟨_, l⟩, he, rfl, hr⟩ := (Multiset.map_eq_cons ..).2 h
  exact ⟨l, _, (Multiset.cons_erase he).symm, hr⟩

/-- The two lightest weights can be joined: their sum in their place, with a bit less for each of the two. -/
theorem exists_joined {x y : Nat} {r : Multiset Nat} {p : Multiset (Nat × Nat)} (hx : ∀ z ∈ y ::ₘ r, x ≤ z)
    (hy : ∀ z ∈ r, y ≤ z) (hp : p.map Prod.fst = x ::ₘ y ::ₘ r) (hkraft : kraftSum (p.map Prod.snd) ≤ 1) :
    ∃ q : Multiset (Nat × Nat), q.map Prod.fst = (x + y) ::ₘ r ∧ kraftSum (q.map Prod.snd) ≤ 1 ∧
      x + y + totalBits q ≤ totalBits p := by
  have hfst : ∀ {q : Multiset (Nat × Nat)} {s : Multiset Nat} {z : Nat}, q.map Prod.fst = s → (∀ u ∈ s, z ≤ u) →
      ∀ e ∈ q, z ≤ e.1 := fun hq hs e he => hs _ (hq ▸ Multiset.mem_map_of_mem _ he)
  obtain ⟨l, p₁, rfl, hp₁⟩ := exists_of_map_fst_eq_cons hp
  obtain ⟨l₁, p₂, hfst₂, hsnd₂, hmax₂, hbits₂⟩ := exists_longest_first (l := l) (hfst hp₁ hx)
  obtain ⟨k, p₃, rfl, hp₃⟩ := exists_of_map_fst_eq_cons (hfst₂.trans hp₁)
  obtain ⟨k₁, p₄, hfst₄, hsnd₄, hmax₄, hbits₄⟩ := exists_longest_first (l := k) (hfst hp₃ hy)
  rw [Multiset.map_cons] at hsnd₂ hkraft
  rw [← hsnd₂, ← hsnd₄] at hkraft
  have hle : k₁ ≤ l₁ := by
    have hmem : k₁ ∈ k ::ₘ p₃.map Prod.snd := hsnd₄ ▸ Multiset.mem_cons_self _ _
    rw [← Multiset.map_cons Prod.snd (y, k)] at hmem
    obtain ⟨e, he, rfl⟩ := Multiset.mem_map.1 hmem
    exact hmax₂ e he
  obtain ⟨n, rfl, hn⟩ := kraftSum_join_le (Multiset.forall_mem_map_iff.2 hmax₄) hkraft
  have hx' := Nat.mul_le_mul_left x hle
  refine ⟨(x + y, n) ::ₘ p₄, by simp [hfst₄, hp₃], by simpa using hn, ?_⟩
  simp only [totalBits_cons, Nat.add_mul, Nat.mul_add, Nat.mul_one] at hbits₂ hbits₄ hx' ⊢
  omega

end Sys2Proof.Machine
end

section
/-! PROOFS. The builder's tree is optimal (R127 (h)): its cost is at most the bits of any lengths that meet the Kraft
inequality. For O20 and O21. -/

namespace Sys2Proof.Machine

/-- The merges that BUILD's loop makes cost at most what any lengths for the trees of its forest take. -/
theorem mergeLoop_cost_optimal {f : Vector Word 256} (hmax : freqTotal f < 2 ^ 32) (n : Nat) {b : Builder} {ts : List HTree}
    (hb : BuilderOk f b) (hf : Forest f b ts) :
    ∃ ts', Forest f (mergeLoop n b) ts' ∧
      ∀ p : Multiset (Nat × Nat), p.map Prod.fst = weights f ts → kraftSum (p.map Prod.snd) ≤ 1 →
        (ts'.map (HTree.cost f)).sum ≤ (ts.map (HTree.cost f)).sum + totalBits p := by
  induction n generalizing b ts with
  | zero => exact ⟨ts, hf, fun _ _ _ => Nat.le_add_right _ _⟩
  | succ n ih =>
    simp only [mergeLoop]
    split
    · next hgt =>
      obtain ⟨x, y, rest, hperm, hx, hy, hf'⟩ := forest_mergeStep hb hf hmax hgt
      obtain ⟨ts', hforest, hle⟩ := ih (builderOk_mergeStep hb hgt).1 hf'
      refine ⟨ts', hforest, fun p hp hkraft => ?_⟩
      have hweights : weights f ts = x.weight f ::ₘ y.weight f ::ₘ weights f rest :=
        Multiset.coe_eq_coe.2 (hperm.map _)
      obtain ⟨q, hq, hqkraft, hbits⟩ := exists_joined (by simpa [weights] using hx) (by simpa [weights] using hy)
        (hp.trans hweights) hkraft
      have hcost := (hperm.map (HTree.cost f)).sum_eq
      have hq' : q.map Prod.fst = weights f (rest ++ [.node x y]) :=
        hq.trans (Multiset.coe_eq_coe.2 (by simpa [HTree.weight] using List.perm_append_comm (l₁ := [_])))
      have hle' := hle q hq' hqkraft
      simp only [List.map_append, List.map_cons, List.map_nil, List.sum_append, List.sum_cons, List.sum_nil, HTree.cost]
        at hcost hle'
      omega
    · exact ⟨ts, hf, fun _ _ _ => Nat.le_add_right _ _⟩

/-- The symbols that are not present take no bits. -/
theorem weightedBits_eq_sum (f : Vector Word 256) (w : Byte → Nat) :
    weightedBits f w = ((presentSymbols f).map fun b => (atSym f b).toNat * w b).sum := by
  have habsent : ((symbols.filter fun b => ¬ atSym f b ≠ 0).map fun b => (atSym f b).toNat * w b).sum = 0 := by
    refine List.sum_eq_zero fun n hn => ?_
    obtain ⟨b, hb, rfl⟩ := List.mem_map.1 hn
    have hzero : atSym f b = 0 := by simpa using (List.mem_filter.1 hb).2
    rw [hzero]; exact Nat.zero_mul _
  have hpresent : presentSymbols f = symbols.filter fun b => atSym f b ≠ 0 := by
    rw [presentSymbols_eq_filter]; exact List.filter_congr fun b _ => by simp [bne, BEq.beq]
  rw [hpresent, weightedBits, ← List.sum_map_filter_add_sum_map_filter_not (fun b => atSym f b ≠ 0), habsent,
    Nat.add_zero]

/-- The tree that BUILD leaves over a table with symbols costs at most what any lengths that meet the Kraft inequality take. -/
theorem buildTree_optimal {f : Vector Word 256} (hmax : freqTotal f < 2 ^ 32) (h : leavesOf f ≠ []) :
    ∃ t, Roots (buildTree f).nodes ((buildTree f).nodes.length - 1) t ∧
      ∀ w : Byte → Nat, kraftSum ((presentSymbols f).map w : List Nat) ≤ 1 → t.cost f ≤ weightedBits f w := by
  obtain ⟨ts, hforest, hle⟩ := mergeLoop_cost_optimal hmax (loadLeaves f).inq.length (builderOk_loadLeaves f)
    (forest_loadLeaves f)
  have hroots := hforest.roots
  rw [← buildTree, inq_buildTree h] at hroots
  obtain ⟨t, _, ⟨hroot, -⟩, hrest, rfl⟩ := List.forall₂_cons_left_iff.1 hroots
  cases hrest
  refine ⟨t, hroot, fun w hw => ?_⟩
  have hbits := hle ((presentSymbols f).map fun b => ((atSym f b).toNat, w b) : List (Nat × Nat))
    (by simp [weights, Function.comp_def, HTree.weight]) (by simpa [Function.comp_def] using hw)
  simpa [totalBits, weightedBits_eq_sum, Function.comp_def, HTree.cost] using hbits

end Sys2Proof.Machine
end

section
/-! PROOFS. The codes of a walked tree (R144 (d), (e)): together, for all the bytes that a table counts, they take the cost of
its tree, which is the fewest bits; and were a more frequent symbol's code the longer one, exchanging the two would take fewer.
Settles O20 and O21. -/

namespace Sys2Proof.Machine

/-! ### BUILD and WALK -/

/-- BUILD leaves the tree of FREQ (R120). -/
theorem holdsTreeOf_of_exec_build {s t : State} (hr : s.ready = true) (h : exec .build s = .next t) :
    t.holdsTreeOf s.freq := by
  obtain ⟨u, hu, rfl⟩ := exec_single_done rfl hr h (exec_build_tree hr h).1
  exact (loaded_of_buildUnit (s := enterPhase .build (accepted .build s)) hu).tree

/-- WALK over a tree writes its codes (R141). -/
theorem walkTable_of_exec_walk {s t : State} (hr : s.ready = true) (hs : s.treeOk) (h : exec .walk s = .next t) :
    walkTable s = some t.code := by
  obtain ⟨u, hu, rfl⟩ := exec_single_done (p := .walk) rfl hr h (exec_walk_tree hr hs h).1
  rw [← walkTable_congr (t := enterPhase .walk (accepted .walk s)) hs rfl rfl]
  exact walkTable_of_walkUnit (t := u) hu

/-- WALK after BUILD writes the codes of the tree of FREQ (R127 (k)). -/
theorem walkTable_of_build_walk {s t u : State} (hr : s.ready = true) (hbuild : exec .build s = .next t)
    (hwalk : exec .walk { t with status := s.status } = .next u) : walkTable (treeState s.freq) = some u.code := by
  have htree := holdsTreeOf_of_exec_build hr hbuild
  rw [walkTable_treeState (s := { t with status := s.status }) htree]
  exact walkTable_of_exec_walk hr (treeOk_of_holdsTreeOf (f := s.freq) htree) hwalk

/-- The arena of at most one symbol is its leaf (R126 (a), (b)). -/
theorem nodes_buildTree_of_length_le_one {f : Vector Word 256} (h : (presentSymbols f).length ≤ 1) :
    (buildTree f).nodes = leavesOf f := by
  have hlen := length_buildTree f
  rw [length_leavesOf] at hlen
  rw [← take_buildTree f, List.take_of_length_le (by rw [length_leavesOf]; omega)]

/-! ### The bits of all codes -/

/-- The bytes that a table counts, each as often as it says. -/
def messageOf (f : Vector Word 256) : List Byte := (presentSymbols f).flatMap fun b => List.replicate (atSym f b).toNat b

theorem count_messageOf_le (f : Vector Word 256) (b : Byte) : (messageOf f).count b ≤ (atSym f b).toNat := by
  have hcount := List.nodup_iff_count_le_one.1 (nodup_presentSymbols f) b
  rw [messageOf, List.count_flatMap, List.sum_map_eq_nsmul_single b]
  · simpa using Nat.mul_le_mul_right (atSym f b).toNat hcount
  · intro c hne _
    simp [List.count_replicate, hne]

theorem codedBits_messageOf (f : Vector Word 256) (code : Vector (Option Code) 256) :
    codedBits code (messageOf f) = weightedBits f (codeLen code) := by
  simp [weightedBits_eq_sum, codedBits, messageOf, List.flatMap_def, List.sum_flatten, Function.comp_def]

/-- With two symbols or more, all the codes take at most the cost of the tree (R127 (h)). -/
theorem weightedBits_walkTable_le {f : Vector Word 256} {t : HTree} {codes : Vector (Option Code) 256}
    (htwo : 2 ≤ (presentSymbols f).length) (hroot : Roots (buildTree f).nodes ((buildTree f).nodes.length - 1) t)
    (h : walkTable (treeState f) = some codes) : weightedBits f (codeLen codes) ≤ t.cost f := by
  have hcnt : (treeState f).nodeCnt.toNat = (buildTree f).nodes.length := nodeCnt_buildTree f
  have hlen := length_buildTree f
  rw [length_leavesOf] at hlen
  have hsmall : ∀ n : BitVec 9, n.toNat < 3 → (treeState f).nodeCnt ≠ n := fun n hn heq => by rw [← heq] at hn; omega
  have h0 := hsmall 0 (by decide)
  have h1 := hsmall 1 (by decide)
  have hat : ∀ m n, (buildTree f).nodes[m]? = some n → (treeState f).nodeAt m = n := fun m n hm => by
    rw [State.nodeAt, treeState, hm]; rfl
  rw [walkTable, if_neg h0, if_neg h1] at h
  have hroot' : Roots (buildTree f).nodes ((treeState f).nodeCnt - 1).toNat t := by
    rw [toNat_sub_one h0, hcnt]; exact hroot
  obtain ⟨fuel, mid, hend, -, hle⟩ :=
    walkLoop_tree (e := ⟨(treeState f).nodeCnt - 1, 0, 0⟩) hat (count_messageOf_le f) hroot' h
  rw [walkLoop_nil hend, ← codedBits_messageOf]
  rw [codedBits_emptyCodes, Nat.zero_add] at hle
  exact hle.trans (by simp)

/-- With one symbol its code is one bit (R142). -/
theorem codeLen_walkTable_of_single {f : Vector Word 256} {a : Byte} {codes : Vector (Option Code) 256}
    (ha : presentSymbols f = [a]) (h : walkTable (treeState f) = some codes) : codeLen codes a = 1 := by
  have hnodes : (buildTree f).nodes = [.leaf a (atSym f a)] := by
    rw [nodes_buildTree_of_length_le_one (by simp [ha]), leavesOf, ha]; rfl
  have hnode : (treeState f).nodeAt 0 = .leaf a (atSym f a) := by rw [State.nodeAt, treeState, hnodes]; rfl
  have hcnt : (treeState f).nodeCnt = 1 := by rw [treeState, hnodes]; rfl
  rw [walkTable, hcnt, hnode] at h
  cases h
  exact codeLen_setSym_same _ _ _

theorem freqTotal_lt_of_freqOk {s : State} (h : s.freqOk) : freqTotal s.freq < 2 ^ 32 := by
  have hle := s.cfg.nMax_le
  unfold State.freqOk at h
  omega

/-- Settles O21: the codes take the cost of the builder's tree, and the lengths of any other assignment meet the Kraft
inequality. -/
theorem walkedCodesAreOptimal : Obligations.WalkedCodesAreOptimal := by
  intro s t u hr hfreq hbuild hwalk
  have hcodes := walkTable_of_build_walk hr hbuild hwalk
  refine ⟨fun htwo w hw => ?_, fun hone => ?_⟩
  · have hne : leavesOf s.freq ≠ [] := List.ne_nil_of_length_pos (by rw [length_leavesOf]; exact Nat.zero_lt_of_lt htwo)
    obtain ⟨r, hroot, hbest⟩ := buildTree_optimal (freqTotal_lt_of_freqOk hfreq) hne
    have hkraft := kraftSum_le_of_prefixFree (nodup_presentSymbols s.freq) htwo fun a ha b hb =>
      hw a b (mem_presentSymbols.1 ha) (mem_presentSymbols.1 hb)
    exact (weightedBits_walkTable_le htwo hroot hcodes).trans (hbest _ hkraft)
  · obtain ⟨a, ha⟩ := List.length_eq_one_iff.1 hone
    have hlen : (u.codeBits a).length = 1 := codeLen_walkTable_of_single ha hcodes
    rw [← sum_freq_leavesOf, weightedBits_eq_sum, leavesOf, ha]
    simp [hlen, Node.freq]

/-! ### Exchanging two codes -/

/-- What the exchange of two present symbols' lengths does to the bits in all. -/
theorem weightedBits_swap {f : Vector Word 256} {a b : Byte} (ha : a ∈ presentSymbols f) (hb : b ∈ presentSymbols f)
    (hne : b ≠ a) (w : Byte → Nat) :
    weightedBits f (fun c => w (Equiv.swap a b c)) + ((atSym f a).toNat * w a + (atSym f b).toNat * w b) =
      weightedBits f w + ((atSym f a).toNat * w b + (atSym f b).toNat * w a) := by
  have hnodup := nodup_presentSymbols f
  have hperm := (List.perm_cons_erase ha).trans ((List.perm_cons_erase ((List.mem_erase_of_ne hne).2 hb)).cons a)
  have hrest : ∀ c ∈ ((presentSymbols f).erase a).erase b, Equiv.swap a b c = c := fun c hc => by
    obtain ⟨hcb, hc⟩ := (hnodup.erase a).mem_erase_iff.1 hc
    exact Equiv.swap_apply_of_ne_of_ne (hnodup.mem_erase_iff.1 hc).1 hcb
  have hsame : ((((presentSymbols f).erase a).erase b).map fun c => (atSym f c).toNat * w (Equiv.swap a b c)) =
      (((presentSymbols f).erase a).erase b).map fun c => (atSym f c).toNat * w c :=
    List.map_congr_left fun c hc => by rw [hrest c hc]
  rw [weightedBits_eq_sum, weightedBits_eq_sum, (hperm.map _).sum_eq, (hperm.map _).sum_eq]
  simp only [List.map_cons, List.sum_cons, hsame, Equiv.swap_apply_left, Equiv.swap_apply_right]
  omega

theorem mem_presentSymbols_iff_pos {f : Vector Word 256} {b : Byte} : b ∈ presentSymbols f ↔ 0 < (atSym f b).toNat := by
  rw [mem_presentSymbols, Nat.pos_iff_ne_zero]; exact BitVec.toNat_ne

/-- Every present symbol has a code (R144 (a)). -/
theorem exists_code_of_present {f : Vector Word 256} {codes : Vector (Option Code) 256} (hmax : freqTotal f < 2 ^ 32)
    (h : walkTable (treeState f) = some codes) {b : Byte} (hb : b ∈ presentSymbols f) : ∃ c, atSym codes b = some c := by
  have hcount : ∀ c, [b].count c ≤ (atSym f c).toNat := fun c => by
    rw [List.count_singleton]
    split
    · next hbc => rw [← beq_iff_eq.1 hbc]; exact mem_presentSymbols_iff_pos.1 hb
    · exact Nat.zero_le _
  have hcoded := (walkTable_of_holdsTreeOf (bs := [b]) ⟨rfl, rfl, rfl⟩ hmax hcount h).1
  exact Option.isSome_iff_exists.1 (hcoded b (List.mem_singleton_self b))

/-- No present symbol's code begins another's (R144 (c)). -/
theorem not_prefix_of_build_walk {s t u : State} (hr : s.ready = true) (hmax : freqTotal s.freq < 2 ^ 32)
    (hbuild : exec .build s = .next t) (hwalk : exec .walk { t with status := s.status } = .next u) {a b : Byte}
    (ha : a ∈ presentSymbols s.freq) (hb : b ∈ presentSymbols s.freq) (hne : a ≠ b) :
    ¬ u.codeBits a <+: u.codeBits b := by
  have hcodes := walkTable_of_build_walk hr hbuild hwalk
  obtain ⟨c, hc⟩ := exists_code_of_present hmax hcodes ha
  obtain ⟨d, hd⟩ := exists_code_of_present hmax hcodes hb
  rw [State.codeBits, State.codeBits, hc, hd]
  exact prefixFree_walkTable (treeOk_of_holdsTreeOf ⟨rfl, rfl, rfl⟩) hcodes a b c d hne hc hd

/-- Settles O20: with the two symbols' codes exchanged still none begins another, so they take no fewer bits in all. -/
theorem frequentSymbolsHaveShortCodes : Obligations.FrequentSymbolsHaveShortCodes := by
  intro s t u hr hfreq hbuild hwalk a b hlt hpos
  have ha : a ∈ presentSymbols s.freq := mem_presentSymbols_iff_pos.2 (hpos.trans hlt)
  have hb : b ∈ presentSymbols s.freq := mem_presentSymbols_iff_pos.2 hpos
  have hne : b ≠ a := by rintro rfl; exact lt_irrefl _ hlt
  have htwo : 2 ≤ s.kView := by
    rw [State.kView, ← List.toFinset_card_of_nodup (nodup_presentSymbols _)]
    exact Finset.one_lt_card.2 ⟨a, List.mem_toFinset.2 ha, b, List.mem_toFinset.2 hb, hne.symm⟩
  have hswap : ∀ c ∈ presentSymbols s.freq, Equiv.swap a b c ∈ presentSymbols s.freq := fun c hc => by
    rw [Equiv.swap_apply_def]
    split_ifs
    · exact hb
    · exact ha
    · exact hc
  by_contra hlong
  have hbest := (walkedCodesAreOptimal s t u hr hfreq hbuild hwalk).1 htwo (fun c => u.codeBits (Equiv.swap a b c))
    fun c d hc hd hcd => not_prefix_of_build_walk hr (freqTotal_lt_of_freqOk hfreq) hbuild hwalk
      (hswap c (mem_presentSymbols.2 hc)) (hswap d (mem_presentSymbols.2 hd)) ((Equiv.swap a b).injective.ne hcd)
  have hexchange := weightedBits_swap ha hb hne fun c => (u.codeBits c).length
  have hless := mul_add_mul_lt_mul_add_mul hlt (not_le.1 hlong)
  omega

end Sys2Proof.Machine
end

section
/-! PROOFS. The arbiter's key order and the merge that follows it (R120 to R124): the order is total, so one member comes
before all others, and a merge takes the first two. Settles O13 and O14. -/

namespace Sys2Proof.Machine

/-! ### The key order -/

/-- Member `i` comes before member `j` by key `(freq, index)` (R122). -/
def KeyBefore (nodes : List Node) (i j : Nat) : Prop :=
  (arenaFreq nodes i).toNat < (arenaFreq nodes j).toNat ∨ (arenaFreq nodes i = arenaFreq nodes j ∧ i < j)

theorem keyLt_iff {nodes : List Node} {i j : Nat} : keyLt nodes i j = true ↔ KeyBefore nodes i j := by
  simp [keyLt, KeyBefore]

section Order
variable {nodes : List Node} {i j k : Nat}

theorem KeyBefore.trans (hij : KeyBefore nodes i j) (hjk : KeyBefore nodes j k) : KeyBefore nodes i k := by
  simp only [KeyBefore, ← BitVec.toNat_inj] at hij hjk ⊢
  omega

theorem KeyBefore.asymm (hij : KeyBefore nodes i j) : ¬ KeyBefore nodes j i := by
  simp only [KeyBefore, ← BitVec.toNat_inj] at hij ⊢
  omega

theorem keyBefore_total (hij : i ≠ j) : KeyBefore nodes i j ∨ KeyBefore nodes j i := by
  simp only [KeyBefore, ← BitVec.toNat_inj]
  omega

/-- Member `i` is `j`, or comes before it. -/
def KeyLe (nodes : List Node) (i j : Nat) : Prop := i = j ∨ KeyBefore nodes i j

theorem KeyLe.trans (hij : KeyLe nodes i j) (hjk : KeyLe nodes j k) : KeyLe nodes i k := by
  rcases hij with rfl | hij
  · exact hjk
  · rcases hjk with rfl | hjk
    · exact .inr hij
    · exact .inr (hij.trans hjk)

theorem keyLe_keyMin (nodes : List Node) (i j : Nat) :
    KeyLe nodes (keyMin nodes i j) i ∧ KeyLe nodes (keyMin nodes i j) j := by
  by_cases h : keyLt nodes j i = true
  · rw [keyMin, if_pos h]
    exact ⟨.inr (keyLt_iff.1 h), .inl rfl⟩
  · rw [keyMin, if_neg h]
    refine ⟨.inl rfl, or_iff_not_imp_left.2 fun hne => ?_⟩
    exact (keyBefore_total hne).resolve_right (mt keyLt_iff.2 h)

end Order

/-! ### The arbiter -/

/-- The arbiter's pick is not after any member (R122). -/
theorem keyLe_pqMin (nodes : List Node) {q : List Nat} {j : Nat} (hj : j ∈ q) : KeyLe nodes (pqMin nodes q) j := by
  have hfold : ∀ (is : List Nat) (i : Nat), ∀ j ∈ i :: is, KeyLe nodes (is.foldl (keyMin nodes) i) j := by
    intro is
    induction is with
    | nil => intro i j hj; exact .inl (List.mem_singleton.1 hj).symm
    | cons k is ih =>
      intro i j hj
      obtain ⟨hi, hk⟩ := keyLe_keyMin nodes i k
      have hhead := ih (keyMin nodes i k) _ List.mem_cons_self
      rw [List.foldl_cons]
      rcases List.mem_cons.1 hj with rfl | hj
      · exact hhead.trans hi
      · rcases List.mem_cons.1 hj with rfl | hj
        · exact hhead.trans hk
        · exact ih _ j (List.mem_cons_of_mem _ hj)
  cases q with
  | nil => cases hj
  | cons i is => exact hfold is i j hj

/-- It comes before every other member. -/
theorem keyBefore_pqMin (nodes : List Node) {q : List Nat} {j : Nat} (hj : j ∈ q) (hne : j ≠ pqMin nodes q) :
    KeyBefore nodes (pqMin nodes q) j :=
  (keyLe_pqMin nodes hj).resolve_left (Ne.symm hne)

/-- Settles O13: the pick comes before all others, and no other member does so, since the order is asymmetric. -/
theorem arbiterPicksTheSmallestKey : Obligations.ArbiterPicksTheSmallestKey := by
  intro nodes q hq i
  have hpick := pqMin_mem nodes hq
  constructor
  · rintro ⟨hi, hfirst⟩
    by_contra hne
    exact KeyBefore.asymm (keyBefore_pqMin nodes hi hne) (hfirst _ hpick (Ne.symm hne))
  · rintro rfl
    exact ⟨hpick, fun j hj hne => keyBefore_pqMin nodes hj hne⟩

/-! ### One merge -/

/-- A merge takes the arbiter's pick, then its pick of the members that are left (R120). -/
theorem mergeStep_takes_picks {b : Builder} (h : 2 ≤ b.inq.length) :
    ∃ lo hi rest, b.inq.Perm (lo :: hi :: rest) ∧
      mergeStep b = ⟨b.nodes ++ [mergeNode b.nodes lo hi], rest ++ [b.nodes.length]⟩ ∧
      (∀ j ∈ hi :: rest, KeyLe b.nodes lo j) ∧ ∀ j ∈ rest, KeyLe b.nodes hi j := by
  have hlo : pqMin b.nodes b.inq ∈ b.inq := pqMin_mem _ (List.ne_nil_of_length_pos (by omega))
  have hlen := List.length_erase_of_mem hlo
  have hhi : pqMin b.nodes (b.inq.erase (pqMin b.nodes b.inq)) ∈ b.inq.erase (pqMin b.nodes b.inq) :=
    pqMin_mem _ (List.ne_nil_of_length_pos (by omega))
  have hperm := List.perm_cons_erase hhi
  exact ⟨_, _, _, (List.perm_cons_erase hlo).trans (hperm.cons _), rfl,
    fun j hj => keyLe_pqMin _ (List.mem_of_mem_erase (hperm.mem_iff.2 hj)),
    fun j hj => keyLe_pqMin _ (List.mem_of_mem_erase hj)⟩

/-- Settles O14: the first pick comes before all members, the second before all but the first. -/
theorem mergeJoinsTheTwoSmallest : Obligations.MergeJoinsTheTwoSmallest := by
  intro b htwo hnodup harena hroom
  obtain ⟨lo, hi, rest, hperm, hstep, hlo, hhi⟩ := mergeStep_takes_picks htwo
  obtain ⟨hlo_notMem, hnodup'⟩ := List.nodup_cons.1 (hperm.nodup_iff.1 hnodup)
  obtain ⟨hhi_notMem, -⟩ := List.nodup_cons.1 hnodup'
  have hmem : ∀ z, z ∈ b.inq ↔ z = lo ∨ z = hi ∨ z ∈ rest := fun z => by simp [hperm.mem_iff]
  have hlo_mem : lo ∈ b.inq := (hmem lo).2 (.inl rfl)
  have hhi_mem : hi ∈ b.inq := (hmem hi).2 (.inr (.inl rfl))
  have hne : lo ≠ hi := fun h => hlo_notMem (h ▸ List.mem_cons_self)
  have hlo_lt := harena lo hlo_mem
  have hhi_lt := harena hi hhi_mem
  refine ⟨lo, hi, hlo_mem, hhi_mem, hne, hlo_lt, hhi_lt, (hlo hi List.mem_cons_self).resolve_left hne,
    fun z hz hzlo hzhi => ?before, BitVec.ofNat 9 lo, BitVec.ofNat 9 hi, Nat.mod_eq_of_lt (by omega),
    Nat.mod_eq_of_lt (by omega), by rw [hstep]; rfl, fun z => ?members, ?length⟩
  case before =>
    have hzrest : z ∈ rest := (((hmem z).1 hz).resolve_left hzlo).resolve_left hzhi
    exact (hhi z hzrest).resolve_left (Ne.symm hzhi)
  case members =>
    rw [hstep, hmem z, List.mem_append, List.mem_singleton]
    constructor
    · rintro (hz | hz)
      · exact .inl ⟨.inr (.inr hz), fun h => hlo_notMem (h ▸ List.mem_cons_of_mem _ hz),
          fun h => hhi_notMem (h ▸ hz)⟩
      · exact .inr hz
    · rintro (⟨hz, hzlo, hzhi⟩ | hz)
      · exact .inl ((hz.resolve_left hzlo).resolve_left hzhi)
      · exact .inr hz
  case length =>
    have hlen := hperm.length_eq
    simpa [hstep] using hlen.symm

end Sys2Proof.Machine
end

section
/-! PROOFS. BUILD for 0, 1, 2 and 256 symbols (R126). Settles O15. -/

namespace Sys2Proof.Machine

section Pair
variable {f : Vector Word 256} {a b : Byte} (h : presentSymbols f = [a, b])
include h

theorem leavesOf_of_pair : leavesOf f = [.leaf a (atSym f a), .leaf b (atSym f b)] := by rw [leavesOf, h]; rfl

theorem arenaFreq_of_pair : arenaFreq (leavesOf f) 0 = atSym f a ∧ arenaFreq (leavesOf f) 1 = atSym f b := by
  rw [leavesOf_of_pair h]; exact ⟨rfl, rfl⟩

/-- Of equal frequencies the lower symbol's leaf is the smaller. -/
theorem pqMin_of_pair : pqMin (leavesOf f) [0, 1] = if (atSym f b).toNat < (atSym f a).toNat then 1 else 0 := by
  simp [pqMin, keyMin, keyLt, arenaFreq_of_pair h]

/-- Two symbols make one merge, of the arbiter's pick with the other leaf. -/
theorem buildTree_of_pick {lo hi : Nat} (hlo : pqMin (leavesOf f) [0, 1] = lo) (hhi : [0, 1].erase lo = [hi]) :
    buildTree f = ⟨leavesOf f ++ [mergeNode (leavesOf f) lo hi], [2]⟩ := by
  have htwo : (leavesOf f).length = 2 := by rw [leavesOf_of_pair h]; rfl
  have hload : loadLeaves f = ⟨leavesOf f, [0, 1]⟩ := by rw [loadLeaves, htwo]; rfl
  have hlast : pqMin (leavesOf f) [hi] = hi := rfl
  simp [buildTree, hload, mergeLoop, mergeStep, hlo, hhi, hlast, htwo]

/-- So the low child is the leaf of smaller frequency, or of the lower symbol (R126 (c)). -/
theorem buildTree_of_pair :
    buildTree f =
      ⟨[.leaf a (atSym f a), .leaf b (atSym f b),
        if (atSym f b).toNat < (atSym f a).toNat then .internal (atSym f a + atSym f b) 1 0
        else .internal (atSym f a + atSym f b) 0 1], [2]⟩ := by
  have hpick := pqMin_of_pair h
  obtain ⟨ha, hb⟩ := arenaFreq_of_pair h
  by_cases hlt : (atSym f b).toNat < (atSym f a).toNat
  · rw [if_pos hlt] at hpick ⊢
    rw [buildTree_of_pick h hpick rfl, mergeNode, ha, hb, BitVec.add_comm, leavesOf_of_pair h]; rfl
  · rw [if_neg hlt] at hpick ⊢
    rw [buildTree_of_pick h hpick rfl, mergeNode, ha, hb, leavesOf_of_pair h]; rfl

end Pair

/-- Settles O15: at most one leaf is the whole tree, two make one merge, and k leaves make 2k - 1 nodes. -/
theorem buildEdgeCases : Obligations.BuildEdgeCases := by
  intro s t hr hbuild
  obtain ⟨hnode, hinq, hcnt⟩ := holdsTreeOf_of_exec_build hr hbuild
  refine ⟨fun hnone => ?none, fun a ha => ?one, fun a b hab => ?two, fun hall => ?all⟩
  case none =>
    have hnil : leavesOf s.freq = [] := List.eq_nil_of_length_eq_zero (by rw [length_leavesOf]; exact hnone)
    have hinq' := (treeOk_of_holdsTreeOf (f := s.freq) ⟨hnode, hinq, hcnt⟩).2.2
    have hnodes := nodes_buildTree_eq_nil.2 hnil
    rw [hnodes] at hnode hcnt
    rw [if_pos hnode] at hinq'
    exact ⟨hnode, hcnt, hinq'⟩
  case one =>
    have hleaves : leavesOf s.freq = [.leaf a (atSym s.freq a)] := by rw [leavesOf, ha]; rfl
    have hnodes : (buildTree s.freq).nodes = [.leaf a (atSym s.freq a)] := by
      rw [nodes_buildTree_of_length_le_one (by simp [ha]), hleaves]
    rw [inq_buildTree (by simp [hleaves]), hnodes] at hinq
    rw [hnodes] at hnode hcnt
    exact ⟨hnode, hcnt, hinq⟩
  case two =>
    rw [buildTree_of_pair hab] at hnode hinq hcnt
    exact ⟨hnode, hcnt, hinq⟩
  case all =>
    have hlen : (buildTree s.freq).nodes.length = 511 := by
      rw [length_buildTree, length_leavesOf, show (presentSymbols s.freq).length = 256 from hall]
    rw [hcnt, hlen]; rfl

end Sys2Proof.Machine
end

section
/-! PROOFS. The tree below the root of an arena (R16): every node but the root is the child of one node, so the tree's symbols are
those of all the leaves, each once. For O16 and O19. -/

namespace Sys2Proof.Machine

/-! ### Trees below entries -/

theorem Roots.unique {ns : List Node} {m : Nat} {t u : HTree} (ht : Roots ns m t) (hu : Roots ns m u) : t = u := by
  induction ht generalizing u with
  | leaf hm =>
    cases hu with
    | leaf hm' => rw [hm] at hm'; cases hm'; rfl
    | node hm' => rw [hm] at hm'; cases hm'
  | node hm _ _ ihl ihh =>
    cases hu with
    | leaf hm' => rw [hm] at hm'; cases hm'
    | node hm' hl hh => rw [hm] at hm'; cases hm'; rw [ihl hl, ihh hh]

/-- Where each child's index is below its parent's, every entry roots a tree. -/
theorem exists_roots {ns : List Node} (hbelow : ∀ i (n : Node), ns[i]? = some n → ∀ c ∈ n.children, c < i) (m : Nat)
    (hm : m < ns.length) : ∃ t, Roots ns m t := by
  induction m using Nat.strong_induction_on with
  | h m ih =>
    have hat := List.getElem?_eq_getElem hm
    cases hn : ns[m] with
    | leaf b w => exact ⟨_, .leaf (hn ▸ hat)⟩
    | internal w l r =>
      rw [hn] at hat
      have hchild : ∀ c ∈ [l.toNat, r.toNat], c < m := hbelow m _ hat
      have hl := hchild l.toNat (by simp)
      have hr := hchild r.toNat (by simp)
      obtain ⟨tl, htl⟩ := ih _ hl (hl.trans hm)
      obtain ⟨tr, htr⟩ := ih _ hr (hr.trans hm)
      exact ⟨_, .node hat htl htr⟩

/-! ### Children and leaves -/

/-- A leaf's own symbol; an internal node has none (R15). -/
def Node.ownSymbols : Node → Multiset Byte
  | .leaf b _ => {b}
  | .internal .. => 0

theorem coe_leafSymbols (ns : List Node) : (leafSymbols ns : Multiset Byte) = (ns.map Node.ownSymbols).sum := by
  induction ns with
  | nil => rfl
  | cons n ns ih =>
    rw [List.map_cons, List.sum_cons, ← ih]
    cases n <;> simp [leafSymbols, Node.isInternal, Node.ownSymbols, Node.sym]

theorem length_flatMap_children {ns : List Node} (h : ∀ n ∈ ns, n.isInternal = true) :
    (ns.flatMap Node.children).length = 2 * ns.length := by
  have htwo : ∀ n ∈ ns, n.children.length = 2 := fun n hn => by
    have hint := h n hn
    cases n with
    | leaf => cases hint
    | internal => rfl
  rw [List.length_flatMap, List.map_congr_left htwo, List.map_const', List.sum_replicate, smul_eq_mul, Nat.mul_comm]

section Shape
variable {k : Nat} {ns : List Node} (ht : TreeShape k ns)
include ht

/-- The leaves are the first `k` entries (R16 (b)). -/
theorem TreeShape.leafSymbols_eq : leafSymbols ns = (ns.take k).map Node.sym := by
  have hkeep : (ns.take k).filter (fun n => !n.isInternal) = ns.take k :=
    List.filter_eq_self.2 fun n hn => by rw [ht.leaves n hn]; rfl
  have hdrop : (ns.drop k).filter (fun n => !n.isInternal) = [] :=
    List.filter_eq_nil_iff.2 fun n hn => by rw [ht.internals n hn]; exact Bool.false_ne_true
  rw [leafSymbols, ← List.take_append_drop k ns, List.filter_append, hkeep, hdrop, List.append_nil, List.take_append_drop]

/-- The leaves' symbols are distinct (R16 (c)). -/
theorem TreeShape.nodup_leafSymbols : (leafSymbols ns).Nodup := by
  have hrise := ht.ascending
  rw [List.pairwise_map] at hrise
  rw [ht.leafSymbols_eq]
  exact List.pairwise_map.2 (hrise.imp fun hlt heq => by rw [heq] at hlt; exact lt_irrefl _ hlt)

theorem TreeShape.length_leafSymbols_le : (leafSymbols ns).length ≤ 256 := by
  rw [ht.leafSymbols_eq, List.length_map, List.length_take]
  exact (Nat.min_le_left _ _).trans ht.fits

/-- Every entry but the root is the child of one node (R16 (e)): there are as many children as such entries. -/
theorem TreeShape.children_perm : (ns.flatMap Node.children).Perm (List.range (ns.length - 1)) := by
  have hlen : (ns.flatMap Node.children).length = 2 * (ns.length - k) := by
    have hfront : (ns.take k).flatMap Node.children = [] :=
      List.flatMap_eq_nil_iff.2 fun n hn => children_eq_nil (ht.leaves n hn)
    rw [← List.take_append_drop k ns, List.flatMap_append, hfront, List.nil_append, length_flatMap_children ht.internals,
      List.take_append_drop, List.length_drop]
  have hsize := ht.size
  refine (ht.oneParent.subperm fun c hc => ?_).perm_of_length_le (by rw [List.length_range, hlen]; omega)
  obtain ⟨n, hn, hcn⟩ := List.mem_flatMap.1 hc
  obtain ⟨i, hi⟩ := List.getElem?_of_mem hn
  have hci := ht.below i n hi c hcn
  have hin := (List.getElem?_eq_some_iff.1 hi).1
  rw [List.mem_range]; omega

/-- What each entry has of its own and from its children comes, over the whole arena, to what the root has: all entries but the
root are some child. -/
theorem TreeShape.sum_ownSymbols (hne : ns ≠ []) {S : Nat → Multiset Byte}
    (hS : ∀ m n, ns[m]? = some n → S m = n.ownSymbols + (n.children.map S).sum) :
    S (ns.length - 1) = (ns.map Node.ownSymbols).sum := by
  have hlen : ns.length = ns.length - 1 + 1 := (Nat.succ_pred_eq_of_pos (List.length_pos_of_ne_nil hne)).symm
  have hall : (List.range ns.length).map S = ns.map fun n => n.ownSymbols + (n.children.map S).sum :=
    List.ext_getElem (by simp) fun m _ hm => by
      have hm : m < ns.length := by simpa using hm
      rw [List.getElem_map, List.getElem_map, List.getElem_range, hS m _ (List.getElem?_eq_getElem hm)]
  have hchildren : (ns.map fun n => (n.children.map S).sum).sum = ((List.range (ns.length - 1)).map S).sum := by
    rw [← (ht.children_perm.map S).sum_eq, List.map_flatMap, List.flatMap_def, List.sum_flatten, List.map_map]; rfl
  have hsum := congrArg List.sum hall
  rw [List.sum_map_add, hchildren, hlen, List.range_succ, List.map_append, List.sum_append, List.map_singleton,
    List.sum_singleton, ← hlen, add_comm] at hsum
  exact add_right_cancel hsum

/-- The root's tree has the symbols of all leaves. -/
theorem TreeShape.exists_root (hne : ns ≠ []) : ∃ t, Roots ns (ns.length - 1) t ∧ t.symbols.Perm (leafSymbols ns) := by
  have : Nonempty HTree := ⟨.leaf 0⟩
  choose! f hf using exists_roots ht.below
  have hlast : ns.length - 1 < ns.length := Nat.pred_lt (List.length_pos_of_ne_nil hne).ne'
  refine ⟨f (ns.length - 1), hf _ hlast, Multiset.coe_eq_coe.1 ?_⟩
  rw [coe_leafSymbols]
  refine ht.sum_ownSymbols hne (S := fun m => ((f m).symbols : Multiset Byte)) fun m n hm => ?_
  have hroots := hf m (List.getElem?_eq_some_iff.1 hm).1
  cases n with
  | leaf b w => rw [hroots.unique (.leaf hm)]; rfl
  | internal w l r =>
    have hlt := (List.getElem?_eq_some_iff.1 hm).1
    have hl := ht.below m _ hm l.toNat (by simp [Node.children])
    have hr := ht.below m _ hm r.toNat (by simp [Node.children])
    rw [hroots.unique (.node hm (hf _ (hl.trans hlt)) (hf _ (hr.trans hlt)))]
    simp [HTree.symbols, Node.ownSymbols, Node.children]

end Shape

end Sys2Proof.Machine
end

section
/-! PROOFS. Which symbols a walk codes, and how much of the code space it fills (R141 to R144): an entry of the walker's stack that
roots a tree adds the tree's symbols, and its own share 2^(255 - len), which each internal node splits between its children.
Settles O16, O17 and O19. -/

namespace Sys2Proof.Machine

/-! ### The Kraft sum of a table -/

/-- The Kraft sum of a table's valid codes, times 2^255 (R144 (f)). -/
def kraftTotal (codes : Vector (Option Code) 256) : Nat :=
  ((symbols.filter fun b => (atSym codes b).isSome).map fun b => 2 ^ (255 - codeLen codes b)).sum

theorem atSym_emptyCodes (b : Byte) : atSym emptyCodes b = none := atSym_replicate none b

theorem kraftTotal_emptyCodes : kraftTotal emptyCodes = 0 := by simp [kraftTotal, atSym_emptyCodes]

theorem nodup_symbols : symbols.Nodup :=
  List.nodup_range.map_on fun a ha b hb h => by
    rw [List.mem_range] at ha hb
    simpa [Nat.mod_eq_of_lt ha, Nat.mod_eq_of_lt hb] using congrArg BitVec.toNat h

theorem isSome_setSym_iff {codes : Vector (Option Code) 256} {a b : Byte} (c : Code) :
    (atSym (setSym codes b (some c)) a).isSome = true ↔ a = b ∨ (atSym codes a).isSome = true := by
  refine ⟨fun h => or_iff_not_imp_left.2 fun hab => ?_, isSome_setSym c⟩
  rwa [atSym_setSym_ne _ _ hab] at h

/-- A code for a symbol that had none adds its share. -/
theorem kraftTotal_setSym {codes : Vector (Option Code) 256} {b : Byte} (c : Code) (h : atSym codes b = none) :
    kraftTotal (setSym codes b (some c)) = kraftTotal codes + 2 ^ (255 - c.len.toNat) := by
  have hnew : b ∉ symbols.filter fun a => (atSym codes a).isSome := by simp [h]
  have hperm : (symbols.filter fun a => (atSym (setSym codes b (some c)) a).isSome).Perm
      (b :: symbols.filter fun a => (atSym codes a).isSome) := by
    have hnodup := List.nodup_cons.2 ⟨hnew, nodup_symbols.filter _⟩
    refine (List.perm_ext_iff_of_nodup (nodup_symbols.filter _) hnodup).2 fun a => ?_
    simp [symbols_complete, isSome_setSym_iff]
  have hold : ∀ a ∈ symbols.filter fun a => (atSym codes a).isSome,
      2 ^ (255 - codeLen (setSym codes b (some c)) a) = 2 ^ (255 - codeLen codes a) := fun a ha => by
    have hab : a ≠ b := fun hab => hnew (hab ▸ ha)
    rw [codeLen_setSym_ne _ _ hab]
  rw [kraftTotal, (hperm.map _).sum_eq, List.map_cons, List.sum_cons, codeLen_setSym_same, List.map_congr_left hold,
    Nat.add_comm, kraftTotal]

/-! ### The walk -/

theorem HTree.length_symbols_pos (t : HTree) : 0 < t.symbols.length := by
  induction t with
  | leaf => exact Nat.one_pos
  | node l h ihl _ => rw [HTree.symbols, List.length_append]; omega

section Walk
variable {ns : List Node} {nodeAt : Nat → Node}

/-- From an entry that roots a tree, none of whose symbols has a code, the walk comes, if it ends, to the rest of its stack: with
codes for the tree's symbols besides, which fill the entry's share of the code space. -/
theorem walkLoop_fills (hat : ∀ m n, ns[m]? = some n → nodeAt m = n) {t : HTree} {e : WalkEntry}
    (ht : Roots ns e.node.toNat t) (hshort : e.len.toNat + t.symbols.length ≤ 256) (hnodup : t.symbols.Nodup) {fuel : Nat}
    {stack : List WalkEntry} {codes codes' : Vector (Option Code) 256} (hnew : ∀ b ∈ t.symbols, atSym codes b = none)
    (h : walkLoop nodeAt fuel (e :: stack) codes = some codes') :
    ∃ fuel' mid, walkLoop nodeAt fuel' stack mid = some codes' ∧
      (∀ b, (atSym mid b).isSome = true ↔ b ∈ t.symbols ∨ (atSym codes b).isSome = true) ∧
      kraftTotal mid = kraftTotal codes + 2 ^ (255 - e.len.toNat) := by
  induction t generalizing e fuel stack codes with
  | leaf b =>
    obtain ⟨hm⟩ := ht
    cases fuel with
    | zero => cases h
    | succ fuel =>
      simp only [walkLoop, hat _ _ hm] at h
      exact ⟨fuel, _, h, fun a => by rw [isSome_setSym_iff, HTree.symbols, List.mem_singleton],
        kraftTotal_setSym ⟨e.len, e.val⟩ (hnew b (List.mem_singleton_self b))⟩
  | node l r ihl ihr =>
    obtain _ | ⟨hm, hl, hr⟩ := ht
    cases fuel with
    | zero => cases h
    | succ fuel =>
      simp only [walkLoop, hat _ _ hm] at h
      simp only [HTree.symbols, List.length_append, List.mem_append] at hshort hnew ⊢
      obtain ⟨hnodupL, hnodupR, hdisjoint⟩ := List.nodup_append'.1 hnodup
      have hposL := l.length_symbols_pos
      have hposR := r.length_symbols_pos
      have hlen : (e.len + 1).toNat = e.len.toNat + 1 := by
        rw [BitVec.toNat_add]; exact Nat.mod_eq_of_lt (by simp; omega)
      obtain ⟨fuel₁, mid₁, h₁, hsome₁, hsum₁⟩ :=
        ihl hl (by dsimp only; omega) hnodupL (fun b hb => hnew b (.inl hb)) h
      have hnewR : ∀ b ∈ r.symbols, atSym mid₁ b = none := fun b hb => by
        rw [← Option.not_isSome_iff_eq_none, hsome₁, hnew b (.inr hb)]
        exact not_or.2 ⟨fun hbl => hdisjoint hbl hb, Bool.false_ne_true⟩
      obtain ⟨fuel₂, mid₂, h₂, hsome₂, hsum₂⟩ := ihr hr (by dsimp only; omega) hnodupR hnewR h₁
      refine ⟨fuel₂, mid₂, h₂, fun b => ?_, ?_⟩
      · rw [hsome₂, hsome₁]; tauto
      · have hsplit : 2 ^ (255 - e.len.toNat) = 2 * 2 ^ (255 - (e.len.toNat + 1)) := by
          rw [← Nat.pow_succ']; congr 1; omega
        rw [hsum₂, hsum₁, hlen, hsplit]; omega

end Walk

/-- Over a tree WALK codes the leaves' symbols, and the codes fill the code space, or half of it with one symbol (R142 to R144). -/
theorem walkTable_fills {s : State} {codes : Vector (Option Code) 256} (hs : s.treeOk) (h : walkTable s = some codes) :
    (∀ b, (atSym codes b).isSome = true ↔ b ∈ leafSymbols s.node) ∧
      kraftTotal codes = if s.nodeCnt = 0 then 0 else if s.nodeCnt = 1 then 2 ^ 254 else 2 ^ 255 := by
  obtain ⟨hcnt, ⟨k, ht⟩, -⟩ := hs
  by_cases h0 : s.nodeCnt = 0
  · have hnil : s.node = [] := List.eq_nil_of_length_eq_zero (by rw [← hcnt, h0]; rfl)
    rw [walkTable, if_pos h0, Option.some.injEq] at h
    rw [← h, hnil, if_pos h0]
    exact ⟨fun b => by simp [atSym_emptyCodes, leafSymbols], kraftTotal_emptyCodes⟩
  have hne : s.node ≠ [] := fun hnil => h0 (BitVec.eq_of_toNat_eq (by rw [hcnt, hnil]; rfl))
  obtain ⟨t, hroot, hperm⟩ := ht.exists_root hne
  have hat : ∀ m n, s.node[m]? = some n → s.nodeAt m = n := fun m n hm => by rw [State.nodeAt, hm]; rfl
  rw [← hcnt, ← toNat_sub_one h0] at hroot
  simp only [← hperm.mem_iff, if_neg h0]
  by_cases h1 : s.nodeCnt = 1
  · rw [walkTable, if_neg h0, if_pos h1, Option.some.injEq] at h
    rw [h1, show (1 - 1 : BitVec 9).toNat = 0 from rfl] at hroot
    rw [← h, if_pos h1]
    cases hroot with
    | @leaf _ b w hm =>
      have hsym : (s.nodeAt 0).sym = b := by rw [hat _ _ hm]; rfl
      rw [hsym]
      refine ⟨fun a => ?_, ?_⟩
      · simp [isSome_setSym_iff, atSym_emptyCodes, HTree.symbols]
      · rw [kraftTotal_setSym _ (atSym_emptyCodes b), kraftTotal_emptyCodes, Nat.zero_add,
          show (1 : BitVec 8).toNat = 1 from rfl]
    | node hm => exact absurd (ht.below 0 _ hm _ List.mem_cons_self) (Nat.not_lt_zero _)
  · rw [walkTable, if_neg h0, if_neg h1] at h
    have hlen := hperm.length_eq.trans_le ht.length_leafSymbols_le
    obtain ⟨fuel, mid, hend, hsome, hsum⟩ := walkLoop_fills (e := ⟨s.nodeCnt - 1, 0, 0⟩) hat hroot
      (by simpa using hlen) (hperm.nodup_iff.2 ht.nodup_leafSymbols) (fun b _ => atSym_emptyCodes b) h
    dsimp only at hsum
    rw [kraftTotal_emptyCodes, Nat.zero_add, show (0 : BitVec 8).toNat = 0 from rfl] at hsum
    rw [walkLoop_nil hend, if_neg h1]
    exact ⟨fun b => by simp [hsome, atSym_emptyCodes], hsum⟩

/-! ### The command -/

/-- An accepted WALK writes the table of its walk. -/
theorem exec_walk_of_walkTable {s : State} {codes : Vector (Option Code) 256} (hr : s.ready = true)
    (h : walkTable (enterPhase .walk (accepted .walk s)) = some codes) : ∃ t, exec .walk s = .next t ∧ t.code = codes := by
  obtain ⟨u, hu, hcode⟩ : ∃ u, walkUnit (enterPhase .walk (accepted .walk s)) = .done u ∧ u.code = codes :=
    ⟨_, by rw [walkUnit, h], rfl⟩
  exact ⟨releaseHidden (complete u), by rw [exec_of_ready rfl hr]; exact runUnits_done hu, hcode⟩

/-- Settles O16: WALK ends over a tree, codes the symbols of its leaves, and each code is a path to one. -/
theorem walkWritesThePaths : Obligations.WalkWritesThePaths := by
  intro s hs hr htree
  obtain ⟨u, hu, -⟩ := walkUnit_done (s := enterPhase .walk (accepted .walk s)) htree
  obtain ⟨hexec, hst, hinfo⟩ := exec_of_completes (i := .walk) rfl hs hr ⟨u, hu, rfl⟩
  have hcodes := walkTable_of_exec_walk hr htree hexec
  refine ⟨_, hexec, hst, hinfo, (walkTable_fills htree hcodes).1, fun hthree b c hc => ?_⟩
  have hcode := treeCode_of_walkTable htree hcodes hc
  have hlarge : ∀ n : BitVec 9, n.toNat < 3 → s.nodeCnt ≠ n := fun n hn heq => by rw [heq] at hthree; omega
  rw [treeCode_iff_leadsTo (hlarge 1 (by decide)), State.root, toNat_sub_one (hlarge 0 (by decide))] at hcode
  exact hcode

/-- Settles O17: with no node the table stays empty, with a single leaf its code alone is entered. -/
theorem walkOfNoneOrOneLeaf : Obligations.WalkOfNoneOrOneLeaf := by
  intro s hr
  refine ⟨fun h0 => ?none, fun a f h1 hnode => ?one⟩
  case none =>
    obtain ⟨t, hexec, hcode⟩ := exec_walk_of_walkTable (codes := emptyCodes) hr (if_pos h0)
    exact ⟨t, hexec, fun b => by rw [State.hasCode, hcode, atSym_emptyCodes]; rfl⟩
  case one =>
    have hleaf : (enterPhase .walk (accepted .walk s)).nodeAt 0 = .leaf a f := by
      rw [State.nodeAt, show (enterPhase .walk (accepted .walk s)).node = _ from hnode]; rfl
    have hcnt : (enterPhase .walk (accepted .walk s)).nodeCnt = 1 := h1
    obtain ⟨t, hexec, hcode⟩ := exec_walk_of_walkTable (codes := setSym emptyCodes a (some ⟨1, 0⟩)) hr
      (by rw [walkTable, hcnt, hleaf]; rfl)
    have ha : atSym t.code a = some ⟨1, 0⟩ := by rw [hcode, atSym_setSym_same]
    refine ⟨t, hexec, ha, by rw [State.codeBits, ha]; rfl, fun b hb => ?_⟩
    rw [State.hasCode, hcode, atSym_setSym_ne _ _ hb, atSym_emptyCodes]; rfl

/-- Settles O19: the walk starts with the whole code space at the root, and each visit keeps it filled. -/
theorem walkedCodesFillTheKraftSum : Obligations.WalkedCodesFillTheKraftSum :=
  fun _ _ hr hs h => (walkTable_fills hs (walkTable_of_exec_walk hr hs h)).2

end Sys2Proof.Machine
end

section
/-! PROOFS. No step faults while NODE is a tree (R141, R242): every unit keeps it one, and WALK, the only unit that could get
stuck, ends over a tree. Settles O57. -/

namespace Sys2Proof.Machine

/-! ### Units -/

theorem treeOk_of_tables {s t : State} (h : t.tables = s.tables) (hs : s.treeOk) : t.treeOk := by
  have hnode : t.node = s.node := congrArg Tables.node h
  have hinq : t.inq = s.inq := congrArg Tables.inq h
  have hcnt : t.nodeCnt = s.nodeCnt := congrArg Tables.nodeCnt h
  simpa only [State.treeOk, hnode, hinq, hcnt] using hs

/-- BUILD makes a tree, and no other unit writes NODE, INQ or NODE_CNT. -/
theorem treeOk_unitOf (p : Phase) {s : State} (hs : s.treeOk) : (unitOf p s).Holds State.treeOk := by
  cases p with
  | build => exact treeOk_of_holdsTreeOf (f := s.freq) ⟨rfl, rfl, rfl⟩
  | _ => exact (unitOf_writes _ s).imp fun t (h : t = _) => by rw [h]; exact hs

theorem unitOf_ne_stuck (p : Phase) {s : State} (hs : s.treeOk) (f : Fault) : unitOf p s ≠ .stuck f := by
  cases p with
  | idle | build => exact nofun
  | count => simp only [unitOf, countUnit]; split <;> exact nofun
  | walk =>
    obtain ⟨t, ht, -⟩ := walkUnit_done hs
    rw [unitOf, ht]; exact nofun
  | pack =>
    simp only [unitOf, packUnit]; split
    · exact nofun
    · split <;> exact nofun
  | frame => simp only [unitOf, frameUnit]; split <;> exact nofun
  | parse => simp only [unitOf, parseUnit]; split <;> exact nofun
  | unpack =>
    simp only [unitOf, unpackUnit]; split
    · exact nofun
    · split
      · exact nofun
      · split <;> exact nofun

/-- Units that run one after another from a tree all find one. -/
theorem noFault_runUnits (ps : List Phase) {s : State} (hs : s.treeOk) :
    noFault (runUnits (ps.map fun p => (p, unitOf p)) s) = true := by
  induction ps generalizing s with
  | nil => rfl
  | cons p ps ih =>
    have hs' : (enterPhase p s).treeOk := hs
    rw [List.map_cons, runUnits]
    split
    · next t ht => exact ih ((treeOk_unitOf p hs').of_done ht)
    · rfl
    · next f hf => exact absurd hf (unitOf_ne_stuck p hs' f)

/-! ### Commands and steps -/

theorem noFault_exec (i : Instr) {s : State} (hs : s.treeOk) : noFault (exec i s) = true := by
  cases hi : isWorking i
  · cases i with
    | nop | srst => rfl
    | clrst => cases hb : s.status.busy <;> simp only [exec, execClrst, hb] <;> rfl
    | _ => cases hi
  · cases hr : s.ready
    · rw [exec_of_not_ready hi hr]; rfl
    · rw [exec_of_ready hi hr]; exact noFault_runUnits _ (s := accepted i s) hs

theorem noFault_hostWrite (off : Nat) (d : Word) {s : State} (hs : s.treeOk) : noFault (hostWrite off d s) = true := by
  unfold hostWrite
  split
  · unfold writeCmd
    split
    · next i _ =>
      have hexec := noFault_exec i hs
      split
      · rfl
      · next hf => rw [hf] at hexec; cases hexec
      · rfl
    · rfl
  · rfl
  · rfl

theorem noFault_transaction (off : Nat) (op : HostOp) (s : State) {o : Host.Outcome State Fault Refusal}
    (ho : noFault o = true) : noFault (transaction off op s o) = true := by
  rcases transaction_cases off op s o with ⟨-, he⟩ | ⟨-, -, -, he⟩ | ⟨-, -, he⟩ <;> rw [he]
  · rfl
  · rfl
  · exact ho

/-- Settles O57: of the host's operations only a write of a command word runs units, and their NODE is a tree. -/
theorem noStepFaults : Obligations.NoStepFaults := by
  intro s hs
  rcases hq : s.host with _ | ⟨op, rest⟩
  · simp only [step, hq]; rfl
  · have htick : (tick { s with host := rest }).treeOk :=
      treeOk_of_tables ((tick_tables _).trans (withHost_tables s rest)) hs
    simp only [step, hq]
    cases op with
    | read off => exact noFault_transaction _ _ _ rfl
    | write off d => exact noFault_transaction _ _ _ (noFault_hostWrite off d htick)
    | irregular | wait | waitIrq | hardReset => rfl

end Sys2Proof.Machine
end

section
/-! PROOFS. PACK's loop, symbol by symbol (R151): it takes the codes in while their whole bytes fit PAY, and it ends at the first
byte without a code, at the first code that fills a byte past PAY, or after the final partial byte. Settles O22, O23 and O24. -/

namespace Sys2Proof.Machine

/-! ### Taking bits in -/

section Append
variable {cap off : Nat} {p : Packer}

/-- One micro-step succeeds where the whole bytes still fit PAY, and raises CapacityError where the byte it fills does not
(R155, R158 (b)). -/
theorem appendBit_ends (hp : PackerOk cap p) (b : Bool) :
    ((p.bitLen + 1) / 8 ≤ cap ∧ ∃ q, appendBit cap off p b = .fine q) ∨
      (cap < (p.bitLen + 1) / 8 ∧ ∃ q, appendBit cap off p b = .raised .capacity off q) := by
  obtain ⟨⟨hroom, -⟩, hbits, hpartial⟩ := hp
  simp only [appendBit]
  split
  · split
    · exact .inr ⟨by omega, _, rfl⟩
    · exact .inl ⟨by omega, _, rfl⟩
  · exact .inl ⟨by omega, _, rfl⟩

/-- So do the micro-steps of a code. -/
theorem appendBits_ends (hp : PackerOk cap p) (bs : List Bool) :
    ((p.bitLen + bs.length) / 8 ≤ cap ∧ ∃ q, appendBits cap off bs p = .fine q) ∨
      (cap < (p.bitLen + bs.length) / 8 ∧ ∃ q, appendBits cap off bs p = .raised .capacity off q) := by
  induction bs generalizing p with
  | nil =>
    obtain ⟨⟨hroom, -⟩, hbits, hpartial⟩ := hp
    exact .inl ⟨by rw [List.length_nil]; omega, p, rfl⟩
  | cons b bs ih =>
    rcases appendBit_ends (off := off) hp b with ⟨-, q, hq⟩ | ⟨hfull, q, hq⟩ <;> simp only [appendBits, hq, List.length_cons]
    · rw [Nat.add_comm bs.length 1, ← Nat.add_assoc, ← appendBit_bitLen hq]
      exact ih (packerOk_appendBit hp hq)
    · exact .inr ⟨by omega, q, rfl⟩

/-- PACK's loop takes in the codes of the first bytes, where each of them has a code and their whole bytes fit PAY. -/
theorem packLoop_append {code : Vector (Option Code) 256} {i : Nat} {bs : List Byte} (hp : PackerOk cap p)
    (hcode : ∀ b ∈ bs, (atSym code b).isSome = true) (hfit : (p.bitLen + codedBits code bs) / 8 ≤ cap) (rest : List Byte) :
    ∃ q, PackerOk cap q ∧ q.bitLen = p.bitLen + codedBits code bs ∧
      packLoop cap code i (bs ++ rest) p = packLoop cap code (i + bs.length) rest q := by
  induction bs generalizing i p with
  | nil => exact ⟨p, hp, rfl, rfl⟩
  | cons b bs ih =>
    obtain ⟨hb, hcode⟩ := List.forall_mem_cons.1 hcode
    obtain ⟨c, hc⟩ := Option.isSome_iff_exists.1 hb
    rw [codedBits_cons, codeLen_of_some hc, ← Nat.add_assoc] at hfit ⊢
    rcases appendBits_ends (off := i) hp c.bits with ⟨-, q, hq⟩ | ⟨hfull, -⟩
    · rw [← appendBits_bitLen hq] at hfit ⊢
      obtain ⟨r, hr, hbits, hrest⟩ := ih (i := i + 1) (packerOk_appendBits hp hq) hcode hfit
      refine ⟨r, hr, hbits, ?_⟩
      rw [List.cons_append, packLoop, hc]
      simp only [hq]
      rw [hrest, List.length_cons, Nat.add_right_comm, Nat.add_assoc]
    · omega

end Append

/-! ### The loop over SRC -/

section Source
variable {s : State} {i : Nat}

theorem take_srcBytes (h : i ≤ s.srcLen.toNat) : s.srcBytes.take i = s.srcSlice 0 i := by
  rw [State.srcBytes, State.srcSlice, State.srcSlice, ← List.map_take, List.take_range, Nat.min_eq_left h]

theorem drop_srcBytes (h : i < s.srcLen.toNat) : s.srcBytes.drop i = s.srcByte i :: s.srcBytes.drop (i + 1) := by
  have hlt : i < s.srcBytes.length := by rwa [length_srcBytes]
  rw [List.drop_eq_getElem_cons hlt, Option.some.inj ((List.getElem?_eq_getElem hlt).symm.trans (getElem?_srcBytes h))]

theorem bitsBefore_eq (s : State) (i : Nat) : s.bitsBefore i = codedBits s.code (s.srcSlice 0 i) := rfl

theorem bitsBefore_succ (s : State) (i : Nat) : s.bitsBefore (i + 1) = s.bitsBefore i + codeLen s.code (s.srcByte i) := by
  simp [bitsBefore_eq, codedBits, State.srcSlice, List.range_succ]

/-- PACK's loop comes to offset `i` with the codes of the bytes before it taken in, where each of them has a code and their
whole bytes fit PAY. -/
theorem packRun_at (hi : i ≤ s.srcLen.toNat) (hcode : ∀ j < i, s.hasCode (s.srcByte j) = true)
    (hfit : s.bitsBefore i / 8 ≤ s.bufBytes) :
    ∃ q, PackerOk s.bufBytes q ∧ q.bitLen = s.bitsBefore i ∧
      packRun s = packLoop s.bufBytes s.code i (s.srcBytes.drop i) q := by
  have hcoded : ∀ b ∈ s.srcSlice 0 i, (atSym s.code b).isSome = true := by
    simpa [State.srcSlice, State.hasCode] using hcode
  have hzero : (Packer.start s.pay).bitLen + codedBits s.code (s.srcSlice 0 i) = s.bitsBefore i := Nat.zero_add _
  obtain ⟨q, hq, hbits, hrun⟩ := packLoop_append (i := 0) (packerOk_start s.bufBytes s.pay) hcoded (hzero ▸ hfit)
    (s.srcBytes.drop i)
  rw [← take_srcBytes hi, List.take_append_drop, List.length_take, length_srcBytes, Nat.min_eq_left hi, Nat.zero_add] at hrun
  exact ⟨q, hq, hbits.trans hzero, hrun⟩

/-- Where the byte at `i` has no code, the loop ends there with ConfigurationError (R153). -/
theorem packRun_uncoded (hi : i < s.srcLen.toNat) (hcode : ∀ j < i, s.hasCode (s.srcByte j) = true)
    (hnone : s.hasCode (s.srcByte i) = false) (hfit : s.bitsBefore i / 8 ≤ s.bufBytes) :
    ∃ q, packRun s = .raised .configuration i q := by
  obtain ⟨q, -, -, hrun⟩ := packRun_at hi.le hcode hfit
  have hc : atSym s.code (s.srcByte i) = none := by simpa [State.hasCode] using hnone
  rw [drop_srcBytes hi, packLoop, hc] at hrun
  exact ⟨q, hrun⟩

/-- Where the code at `i` fills a byte past PAY, the loop ends there with CapacityError (R158 (b)). -/
theorem packRun_full (hi : i < s.srcLen.toNat) (hcode : ∀ j ≤ i, s.hasCode (s.srcByte j) = true)
    (hfit : s.bitsBefore i / 8 ≤ s.bufBytes) (hfull : s.bufBytes < s.bitsBefore (i + 1) / 8) :
    ∃ q, packRun s = .raised .capacity i q := by
  obtain ⟨q, hq, hbits, hrun⟩ := packRun_at hi.le (fun j hj => hcode j hj.le) hfit
  obtain ⟨c, hc⟩ := Option.isSome_iff_exists.1 (hcode i le_rfl)
  rw [bitsBefore_succ, codeLen_of_some hc, ← hbits] at hfull
  rcases appendBits_ends (off := i) hq c.bits with ⟨hroom, -⟩ | ⟨-, r, hr⟩
  · omega
  · rw [drop_srcBytes hi, packLoop, hc] at hrun
    simp only [hr] at hrun
    exact ⟨r, hrun⟩

/-- Where the whole bytes of all the codes fill PAY and bits remain, the final partial byte raises CapacityError with SRC_LEN
(R158 (b)). -/
theorem packRun_full_at_end (hcode : ∀ j < s.srcLen.toNat, s.hasCode (s.srcByte j) = true)
    (hfull : s.bitsBefore s.srcLen.toNat / 8 = s.bufBytes) (hpartial : s.bitsBefore s.srcLen.toNat % 8 ≠ 0) :
    ∃ q, packRun s = .raised .capacity s.srcLen.toNat q := by
  obtain ⟨q, ⟨-, hcount, hlt⟩, hbits, hrun⟩ := packRun_at le_rfl hcode hfull.le
  have hend : s.srcBytes.drop s.srcLen.toNat = [] := List.drop_eq_nil_of_le (length_srcBytes s).le
  rw [hend, packLoop, flushLast, if_pos (by omega), if_pos (by omega)] at hrun
  exact ⟨q, hrun⟩

/-- Where every byte has a code and the payload fits PAY, the loop ends without error (R159). -/
theorem packRun_fine (hcode : ∀ b ∈ s.srcBytes, s.hasCode b = true) (hfit : ceil8 (s.bitsBefore s.srcLen.toNat) ≤ s.bufBytes) :
    ∃ q, packRun s = .fine q := by
  have hstart : (Packer.start s.pay).taken = 0 := rfl
  rw [bitsBefore_srcLen, ceil8] at hfit
  exact packLoop_fine hcode (by omega)

end Source

/-! ### The command -/

theorem packUnit_of_raised {s : State} {e : ErrCode} {j : Nat} {q : Packer} (hfits : s.srcLen.toNat ≤ s.cfg.nMax)
    (h : packRun s = .raised e j q) :
    packUnit s =
      .raised e (BitVec.ofNat 32 j) { s with pay := q.pay, bitLen := 0, hidden := packHidden s.hidden j q } := by
  rw [packUnit, if_neg (not_lt.2 hfits), h]

/-- PACK completes where its loop does, and the payload has been written (R159 (d)). -/
theorem packUnit_of_fine {s : State} {p : Packer} (hfits : s.srcLen.toNat ≤ s.cfg.nMax) (h : packRun s = .fine p) :
    ∃ t, packUnit s = .done t ∧ t.payloadOk :=
  ⟨_, by rw [packUnit, if_neg (not_lt.2 hfits), h],
    Memory.written_of_le (packLoop_written (packerOk_start s.bufBytes s.pay) h) (ceil8_toNat_ofNat_le 32 p.bitLen)⟩

/-- An error of the loop is PACK's, and BITLEN is 0 (R157). -/
theorem exec_pack_of_raised {s : State} {e : ErrCode} {j : Nat} {q : Packer} (hr : s.ready = true)
    (hfits : s.srcLen.toNat ≤ s.cfg.nMax) (h : packRun s = .raised e j q) :
    ∃ t, exec .pack s = .next t ∧ t.status = Status.failed e .pack ∧ t.errInfo = BitVec.ofNat 32 j ∧ t.bitLen = 0 := by
  obtain ⟨hid, hexec⟩ := exec_of_first_raised_frame (i := .pack) rfl hr
    (packUnit_of_raised (s := enterPhase .pack (accepted .pack s)) hfits h)
  exact ⟨_, hexec, rfl, rfl, rfl⟩

/-- Settles O23: the loop comes to offset `i`, where the lookup fails. -/
theorem packStopsAtAnUncodedByte : Obligations.PackStopsAtAnUncodedByte := by
  intro s i hr hfits hi hcode hnone hfit
  obtain ⟨q, hq⟩ := packRun_uncoded hi hcode hnone hfit
  exact exec_pack_of_raised hr hfits hq

/-- Settles O24: the loop comes to the code, or to the final partial byte, that does not fit PAY. -/
theorem packStopsAtAFullPayload : Obligations.PackStopsAtAFullPayload := by
  intro s hr hfits
  refine ⟨fun i hi hcode hfit hfull => ?symbol, fun hcode hfull hpartial => ?last⟩
  case symbol =>
    obtain ⟨q, hq⟩ := packRun_full hi hcode hfit hfull
    exact exec_pack_of_raised hr hfits hq
  case last =>
    have hcode : ∀ j < s.srcLen.toNat, s.hasCode (s.srcByte j) = true := fun j hj =>
      hcode _ (List.mem_of_getElem? (getElem?_srcBytes hj))
    obtain ⟨q, hq⟩ := packRun_full_at_end hcode hfull hpartial
    obtain ⟨t, hexec, hst, hinfo, hbits⟩ := exec_pack_of_raised hr hfits hq
    exact ⟨t, hexec, hst, by rw [hinfo, BitVec.ofNat_toNat, BitVec.setWidth_eq], hbits⟩

/-- The stream bits of whole bytes of PAY, one by one (R43, R74). -/
theorem getElem?_bitsOfBytes_payByte (s : State) {n j : Nat} (h : j < 8 * n) :
    (bitsOfBytes s.payByte n)[j]? = some (s.payBit j) := by
  simp [bitsOfBytes_eq_map, h, State.payBit]

/-- The pad bits of PACK's payload are 0 (R156, R159 (c)). -/
theorem packUnit_padBits {s t : State} (h : packUnit s = .done t) {j : Nat} (hj : t.bitLen.toNat ≤ j)
    (hlt : j < 8 * ceil8 t.bitLen.toNat) : t.payBit j = false := by
  obtain ⟨hlen, hpayload⟩ := packUnit_payload h
  have hbits : (s.srcBytes.flatMap s.codeBits).length = t.bitLen.toNat := by rw [hlen, List.length_flatMap]; rfl
  have hpad := getElem?_bitsOfBytes_payByte t hlt
  rw [hpayload, padded, List.getElem?_append_right (hbits.trans_le hj), hbits] at hpad
  exact List.eq_of_mem_replicate (List.mem_of_getElem? hpad)

/-- Settles O22: PACK's one unit completes, and leaves the padded codes. -/
theorem packConcatenatesTheCodes : Obligations.PackConcatenatesTheCodes := by
  intro s hs hr hfits hcode hfit
  obtain ⟨p, hp⟩ := packRun_fine hcode hfit
  obtain ⟨t, ht, -, hwritten⟩ := packUnit_of_fine (s := enterPhase .pack (accepted .pack s)) hfits hp
  obtain ⟨hexec, hst, hinfo⟩ := exec_of_completes (i := .pack) rfl hs hr ⟨t, ht, rfl⟩
  have hbits : t.payBits = s.srcBytes.flatMap s.codeBits :=
    packUnit_payBits (s := enterPhase .pack (accepted .pack s)) ht
  exact ⟨_, hexec, hst, hinfo, (packUnit_payload ht).1, hbits, fun _ => packUnit_padBits ht, hwritten⟩

end Sys2Proof.Machine
end

section
/-! PROOFS. How UNPACK ends (R167 to R175): its loop follows a path of the tree to an internal node, where it is inside a code, or
to a leaf, where it emits or finds N_MAX symbols emitted already. Settles O30, O31, O32, O33 and O34. -/

namespace Sys2Proof.Machine

/-! ### Paths inside the tree -/

section Descend
variable {nodeAt : Nat → Node} {m k : Nat}

/-- The first step of a path goes to a child of an internal node. -/
theorem descend_cons {x : Bool} {bs : List Bool} (h : descend nodeAt m (x :: bs) = some k) :
    (nodeAt m).isInternal = true ∧ descend nodeAt ((nodeAt m).child x).toNat bs = some k := by
  rw [descend] at h
  cases hm : nodeAt m with
  | leaf => rw [hm] at h; cases h
  | internal => rw [hm] at h; exact ⟨rfl, h⟩

/-- A path to an internal node has internal nodes alone on it. -/
theorem isInternal_of_descend {bs : List Bool} (h : descend nodeAt m bs = some k) (hk : (nodeAt k).isInternal = true) :
    (nodeAt m).isInternal = true := by
  cases bs with
  | nil => rw [descend, Option.some.injEq] at h; rwa [h]
  | cons x bs => exact (descend_cons h).1

/-- Where each child's index is below its parent's, a path of at least one step ends below its start. -/
theorem descend_lt {n : Nat} (hbelow : ∀ m < n, ∀ c ∈ (nodeAt m).children, c < m) (hm : m < n) {bs : List Bool}
    (h : descend nodeAt m bs = some k) (hne : bs ≠ []) : k < m := by
  induction bs generalizing m with
  | nil => exact absurd rfl hne
  | cons x bs ih =>
    obtain ⟨hint, hrest⟩ := descend_cons h
    have hchild := hbelow m hm _ (Node.child_mem_children hint x)
    by_cases hbs : bs = []
    · rw [hbs, descend, Option.some.injEq] at hrest; rwa [← hrest]
    · exact (ih (hchild.trans hm) hrest hbs).trans hchild

/-- The last step to a leaf goes to it from an internal node. -/
theorem LeadsTo.last_step {bs : List Bool} {x : Bool} {b : Byte} (h : LeadsTo nodeAt m (bs ++ [x]) b) :
    ∃ k f, descend nodeAt m bs = some k ∧ (nodeAt k).isInternal = true ∧ nodeAt ((nodeAt k).child x).toNat = .leaf b f := by
  obtain ⟨l, f, hl, hleaf⟩ := h
  rw [descend_append, Option.bind_eq_some_iff] at hl
  obtain ⟨k, hk, hlast⟩ := hl
  obtain ⟨hint, hchild⟩ := descend_cons hlast
  rw [descend, Option.some.injEq] at hchild
  exact ⟨k, f, hk, hint, by rw [hchild, hleaf]⟩

end Descend

/-- No path of a tree leads back to the root. -/
theorem ne_root_of_descend {s : State} (hs : s.treeOk) (h0 : s.nodeCnt ≠ 0) {bs : List Bool} {k : Nat}
    (h : descend s.nodeAt s.root.toNat bs = some k) (hne : bs ≠ []) : k ≠ s.root.toNat := by
  have hroot := root_toNat hs h0
  have hpos : s.nodeCnt.toNat ≠ 0 := fun h => h0 (BitVec.eq_of_toNat_eq h)
  obtain ⟨hlen, ⟨_, ht⟩, -⟩ := hs
  exact (descend_lt (fun m hm => ht.below m _ (nodeAt_eq hm)) (by omega) h hne).ne

/-! ### The loop -/

section Loop
variable {nMax j : Nat} {nodeAt : Nat → Node} {root : BitVec 9} {u : Unpacker}

/-- Along a path to an internal node the unpacker comes to it and emits nothing (R170). -/
theorem unpackLoop_descend {bits : List Bool} {k : Nat} (rest : List Bool) (h : descend nodeAt u.cur.toNat bits = some k)
    (hk : (nodeAt k).isInternal = true) :
    ∃ c : BitVec 9, c.toNat = k ∧ unpackLoop nMax nodeAt false root j (bits ++ rest) u =
      unpackLoop nMax nodeAt false root (j + bits.length) rest { u with cur := c } := by
  induction bits generalizing u j with
  | nil => exact ⟨u.cur, Option.some.inj h, rfl⟩
  | cons x bs ih =>
    obtain ⟨-, hrest⟩ := descend_cons h
    obtain ⟨c, hc, hloop⟩ := ih (u := { u with cur := (nodeAt u.cur.toNat).child x }) (j := j + 1) hrest
    refine ⟨c, hc, ?_⟩
    rw [List.cons_append, unpackLoop, unpackBit_to_internal (isInternal_of_descend hrest hk)]
    dsimp only
    rw [hloop, List.length_cons, Nat.add_right_comm, Nat.add_assoc]

theorem emit_full (h : nMax ≤ u.upO) (b : Byte) : emit nMax j u b = .raised .capacity j u := if_pos h

/-- A step to a leaf raises CapacityError where N_MAX symbols have been emitted (R173). -/
theorem unpackBit_to_leaf_full {bit : Bool} {b : Byte} {f : Word}
    (h : nodeAt ((nodeAt u.cur.toNat).child bit).toNat = .leaf b f) (hfull : nMax ≤ u.upO) :
    unpackBit nMax j nodeAt false root u bit = .raised .capacity j { u with cur := (nodeAt u.cur.toNat).child bit } := by
  simp only [Node.child] at h ⊢
  simp [unpackBit, unpackMatch, h, emit_full, hfull]

/-- So does the last step of a path to a leaf, with the index of its bit (R173). -/
theorem unpackLoop_leadsTo_full {bits : List Bool} {b : Byte} (rest : List Bool) (hne : bits ≠ [])
    (h : LeadsTo nodeAt u.cur.toNat bits b) (hfull : nMax ≤ u.upO) :
    ∃ i v, unpackLoop nMax nodeAt false root j (bits ++ rest) u = .raised .capacity i v ∧ i + 1 = j + bits.length := by
  obtain ⟨bs, x, rfl⟩ := (List.eq_nil_or_concat' bits).resolve_left hne
  obtain ⟨k, f, hk, hint, hleaf⟩ := h.last_step
  obtain ⟨c, rfl, hloop⟩ := unpackLoop_descend (nMax := nMax) (j := j) (root := root) (x :: rest) hk hint
  have hlast := unpackBit_to_leaf_full (j := j + bs.length) (root := root) (u := { u with cur := c }) hleaf hfull
  refine ⟨j + bs.length, { u with cur := (nodeAt c.toNat).child x }, ?_,
    by rw [List.length_append, List.length_singleton, Nat.add_assoc]⟩
  rw [List.append_assoc, List.singleton_append, hloop, unpackLoop, hlast]

end Loop

/-! ### How the loop of UNPACK ends -/

theorem length_payBits (s : State) : s.payBits.length = s.bitLen.toNat := by simp [State.payBits]

section Run
variable {s : State} {ps : List (Byte × List Bool)}

/-- UNPACK's loop comes past a concatenation of at most N_MAX codes to the bits after it, at the root. -/
theorem unpackRun_codes (hs : s.treeOk) (h0 : s.nodeCnt ≠ 0) (hps : ∀ p ∈ ps, s.treeCode p.1 p.2) {rest : List Bool}
    (hbits : s.payBits = ps.flatMap Prod.snd ++ rest) (hlen : ps.length ≤ s.cfg.nMax) :
    unpackRun s = unpackLoop s.cfg.nMax s.nodeAt (s.nodeCnt == 1) s.root (ps.flatMap Prod.snd).length rest
      ⟨s.root, ps.length, Memory.storeList s.dst 0 (ps.map Prod.fst)⟩ := by
  rw [unpackRun, hbits,
    unpackLoop_codes (u := ⟨s.root, 0, s.dst⟩) hs h0 hps rest rfl (by rwa [Nat.zero_add]), Nat.zero_add, Nat.zero_add]

/-- Where the bits after the codes end inside the tree, the check after the last bit fails (R172). -/
theorem unpackRun_mid_code (hs : s.treeOk) (h0 : s.nodeCnt ≠ 0) (h1 : s.nodeCnt ≠ 1) (hps : ∀ p ∈ ps, s.treeCode p.1 p.2)
    {tail : List Bool} (hbits : s.payBits = ps.flatMap Prod.snd ++ tail) (hlen : ps.length ≤ s.cfg.nMax) (hne : tail ≠ [])
    {m : Nat} (hm : descend s.nodeAt s.root.toNat tail = some m) (hint : (s.nodeAt m).isInternal = true) :
    ∃ v, unpackRun s = .raised .corruptContainer s.bitLen.toNat v := by
  have hrun := unpackRun_codes hs h0 hps hbits hlen
  rw [beq_false_of_ne h1, ← List.append_nil tail] at hrun
  obtain ⟨c, rfl, hloop⟩ := unpackLoop_descend (nMax := s.cfg.nMax) (j := (ps.flatMap Prod.snd).length) (root := s.root)
    (u := ⟨s.root, ps.length, Memory.storeList s.dst 0 (ps.map Prod.fst)⟩) [] hm hint
  have hroot : c ≠ s.root := fun h => ne_root_of_descend hs h0 hm hne (congrArg BitVec.toNat h)
  rw [hloop, unpackLoop, if_pos hroot, ← List.length_append, ← hbits, length_payBits] at hrun
  exact ⟨_, hrun⟩

/-- Over a single leaf the loop ends at the first 1 bit (R171, R172). -/
theorem unpackRun_one_bit (hs : s.treeOk) (h1 : s.nodeCnt = 1) {j : Nat} (hj : j < s.bitLen.toNat) (hmax : j ≤ s.cfg.nMax)
    (hzeros : ∀ i < j, s.payBit i = false) (hone : s.payBit j = true) :
    ∃ v, unpackRun s = .raised .corruptContainer j v := by
  have hlt : j < s.payBits.length := by rwa [length_payBits]
  have hat : s.payBits[j] = true := by simpa [State.payBits] using hone
  have htake : s.payBits.take j = List.replicate j false := by
    refine List.eq_replicate_iff.2 ⟨by rw [List.length_take, Nat.min_eq_left hlt.le], fun b hb => ?_⟩
    obtain ⟨i, hi, rfl⟩ := List.mem_take_iff_getElem.1 hb
    simpa [State.payBits] using hzeros i (by omega)
  have hflat : (List.replicate j ((s.nodeAt 0).sym, [false])).flatMap Prod.snd = List.replicate j false := by
    simp [List.flatMap_replicate]
  have hbits : s.payBits =
      (List.replicate j ((s.nodeAt 0).sym, [false])).flatMap Prod.snd ++ true :: s.payBits.drop (j + 1) := by
    rw [hflat, ← htake, ← hat, ← List.drop_eq_getElem_cons hlt, List.take_append_drop]
  have hcodes : ∀ p ∈ List.replicate j ((s.nodeAt 0).sym, [false]), s.treeCode p.1 p.2 := fun p hp => by
    rw [List.eq_of_mem_replicate hp, State.treeCode, if_pos h1]; exact ⟨rfl, rfl⟩
  have hrun := unpackRun_codes hs (by rw [h1]; decide) hcodes hbits (by rwa [List.length_replicate])
  rw [hflat, List.length_replicate, unpackLoop, beq_iff_eq.2 h1] at hrun
  exact ⟨_, hrun⟩

/-- After N_MAX codes the bit that completes one more raises CapacityError (R173). -/
theorem unpackRun_long (hs : s.treeOk) (h0 : s.nodeCnt ≠ 0) (hps : ∀ p ∈ ps, s.treeCode p.1 p.2) {b : Byte}
    {bits rest : List Bool} (hcode : s.treeCode b bits) (hlen : ps.length = s.cfg.nMax)
    (hbits : s.payBits = ps.flatMap Prod.snd ++ (bits ++ rest)) :
    ∃ i v, unpackRun s = .raised .capacity i v ∧ i + 1 = (ps.flatMap Prod.snd).length + bits.length := by
  rw [unpackRun_codes hs h0 hps hbits hlen.le]
  by_cases h1 : s.nodeCnt = 1
  · rw [State.treeCode, if_pos h1] at hcode
    obtain ⟨rfl, -⟩ := hcode
    rw [List.singleton_append, unpackLoop, beq_iff_eq.2 h1, unpackBit, if_pos rfl, unpackSingle, if_neg Bool.false_ne_true,
      emit_full hlen.ge]
    exact ⟨_, _, rfl, rfl⟩
  · rw [beq_false_of_ne h1]
    exact unpackLoop_leadsTo_full rest (treeCode_ne_nil hs h0 hcode) ((treeCode_iff_leadsTo h1).1 hcode) hlen.ge

end Run

/-! ### The command -/

/-- The state that UNPACK's unit starts from has another number, and so other free values, but the loop does not read them. -/
theorem unpackRun_accepted {s : State} (hs : s.treeOk) (h0 : s.nodeCnt ≠ 0) :
    unpackRun (enterPhase .unpack (accepted .unpack s)) = unpackRun s :=
  unpackRun_congr hs h0 rfl rfl rfl rfl

theorem unpackUnit_of_raised {s : State} {e : ErrCode} {i : Nat} {v : Unpacker} (hbits : s.bitLen ≠ 0) (h0 : s.nodeCnt ≠ 0)
    (h : unpackRun s = .raised e i v) :
    unpackUnit s = .raised e (BitVec.ofNat 32 i) { s with dst := v.dst, hidden := unpackHidden s.hidden i v } := by
  rw [unpackUnit, if_neg hbits, if_neg h0, h]

/-- An error of the loop is UNPACK's, and DST_LEN is 0 (R174). -/
theorem exec_unpack_of_raised {s : State} {e : ErrCode} {i : Nat} {v : Unpacker} (hr : s.ready = true) (hs : s.treeOk)
    (h0 : s.nodeCnt ≠ 0) (hbits : s.payBits ≠ []) (h : unpackRun s = .raised e i v) :
    ∃ t, exec .unpack s = .next t ∧ t.status = Status.failed e .unpack ∧ t.errInfo = BitVec.ofNat 32 i ∧ t.dstLen = 0 := by
  have hzero : s.bitLen ≠ 0 := fun h => hbits (List.eq_nil_of_length_eq_zero (by rw [length_payBits, h]; rfl))
  obtain ⟨hid, hexec⟩ := exec_of_first_raised_frame (i := .unpack) rfl hr
    (unpackUnit_of_raised (s := enterPhase .unpack (accepted .unpack s)) hzero h0 ((unpackRun_accepted hs h0).trans h))
  exact ⟨_, hexec, rfl, rfl, rfl⟩

/-- UNPACK of at most N_MAX codes of the tree, none where there is no tree, finishes and leaves their symbols (R175 (d)). -/
theorem exec_unpack_of_codes {s : State} {ps : List (Byte × List Bool)} (hok : s.statusOk = true) (hr : s.ready = true)
    (hs : s.treeOk) (hps : ∀ p ∈ ps, s.treeCode p.1 p.2) (hnone : s.nodeCnt = 0 → ps = [])
    (hbits : s.payBits = ps.flatMap Prod.snd) (hlen : ps.length ≤ s.cfg.nMax) :
    ∃ t, exec .unpack s = .next t ∧ t.status = Status.finished ∧ t.errInfo = 0 ∧ t.dstLen.toNat = ps.length ∧
      ∀ i p, ps[i]? = some p → t.dstByte i = p.1 := by
  have hcodes : ∀ p ∈ ps, (enterPhase .unpack (accepted .unpack s)).treeCode p.1 p.2 := fun p hp =>
    treeCode_congr (t := enterPhase .unpack (accepted .unpack s)) hs (fun h0 => List.ne_nil_of_mem hp (hnone h0)) rfl rfl
      (hps p hp)
  obtain ⟨t, ht, hdstLen, hdst⟩ := unpackUnit_codes (s := enterPhase .unpack (accepted .unpack s)) hs hcodes hnone hbits hlen
  obtain ⟨hexec, hst, hinfo⟩ := exec_of_completes (i := .unpack) rfl hok hr ⟨t, ht, rfl⟩
  exact ⟨_, hexec, hst, hinfo, hdstLen, hdst⟩

/-- Settles O31: the loop takes in the codes one after another. -/
theorem unpackDecodesAConcatenation : Obligations.UnpackDecodesAConcatenation :=
  fun _ _ hok hr hs h0 hps hbits hlen => exec_unpack_of_codes hok hr hs hps (fun h => absurd h h0) hbits hlen

/-! ### After PACK -/

/-- PACK's loop ends without error only where every byte has a code (R153). -/
theorem packLoop_coded {cap i : Nat} {code : Vector (Option Code) 256} {bs : List Byte} {p q : Packer}
    (h : packLoop cap code i bs p = .fine q) : ∀ b ∈ bs, (atSym code b).isSome = true := by
  induction bs generalizing i p with
  | nil => exact List.forall_mem_nil _
  | cons b bs ih =>
    simp only [packLoop] at h
    split at h
    · cases h
    · next c hc =>
      split at h
      · exact List.forall_mem_cons.2 ⟨by rw [hc]; rfl, ih h⟩
      · cases h

/-- PACK ends without error only over an input within N_MAX whose every byte has a code (R153, R158 (a)). -/
theorem packUnit_done_coded {s t : State} (h : packUnit s = .done t) :
    s.srcLen.toNat ≤ s.cfg.nMax ∧ ∀ b ∈ s.srcBytes, s.hasCode b = true := by
  simp only [packUnit] at h
  split at h
  · cases h
  · next hfits =>
    split at h
    · next p hp => exact ⟨not_lt.1 hfits, packLoop_coded hp⟩
    · cases h

/-- What PACK leaves without an error: the bits of SRC's message of codes, and ERR_INFO and all but PAY as it was. -/
theorem exec_pack_done {s t : State} (hr : s.ready = true) (h : exec .pack s = .next t) (hok : t.status.err = .noError) :
    (s.srcLen.toNat ≤ s.cfg.nMax ∧ ∀ b ∈ s.srcBytes, s.hasCode b = true) ∧ t.payBits = s.message.flatMap Prod.snd ∧
      t = { s with pay := t.pay, bitLen := t.bitLen, hidden := t.hidden, status := t.status, cmdEra := t.cmdEra } := by
  obtain ⟨u, hu, rfl⟩ := exec_single_done (p := .pack) rfl hr h hok
  have hwrites : u = _ := (unitOf_writes .pack _).of_done hu
  refine ⟨packUnit_done_coded (s := enterPhase .pack (accepted .pack s)) hu, ?_, ?_⟩
  · have hbits := packUnit_payBits (t := u) hu
    rw [flatMap_message]; exact hbits
  · rw [hwrites]; rfl

/-- Each code of a message is its symbol's in the tree that WALK wrote the codes of; without a tree there is none. -/
theorem treeCode_of_message {s t : State} (hs : s.treeOk) (hcodes : walkTable s = some t.code)
    (hcoded : ∀ b ∈ t.srcBytes, t.hasCode b = true) : ∀ p ∈ t.message, s.treeCode p.1 p.2 ∧ s.nodeCnt ≠ 0 := by
  intro p hp
  obtain ⟨b, hb, rfl⟩ := List.mem_map.1 hp
  obtain ⟨c, hc⟩ := Option.isSome_iff_exists.1 (hcoded b hb)
  have hbits : t.codeBits b = c.bits := by rw [State.codeBits, hc]; rfl
  refine ⟨hbits ▸ treeCode_of_walkTable hs hcodes hc, fun h0 => ?_⟩
  rw [walkTable, if_pos h0, Option.some.injEq] at hcodes
  rw [← hcodes, atSym_emptyCodes] at hc
  cases hc

/-- Where CODE holds the codes of the tree, UNPACK gives back what PACK has packed. -/
theorem exec_unpack_of_packed {s u : State} (hok : s.statusOk = true) (hr : s.ready = true) (hs : s.treeOk)
    (hcodes : walkTable s = some s.code) (hpack : exec .pack s = .next u) (hfine : u.status.err = .noError) :
    ∃ v, exec .unpack { u with status := s.status } = .next v ∧ v.status = Status.finished ∧ v.dstLen = s.srcLen ∧
      ∀ i < s.srcLen.toNat, v.dstByte i = s.srcByte i := by
  obtain ⟨⟨hfits, hcoded⟩, hbits, hu⟩ := exec_pack_done hr hpack hfine
  have hmessage := treeCode_of_message hs hcodes hcoded
  have hnode : u.node = s.node := by rw [hu]
  have hcnt : u.nodeCnt = s.nodeCnt := by rw [hu]
  have hps : ∀ p ∈ s.message, { u with status := s.status }.treeCode p.1 p.2 := fun p hp =>
    treeCode_congr hs (hmessage p hp).2 hnode hcnt (hmessage p hp).1
  have hnone : u.nodeCnt = 0 → s.message = [] := fun h0 =>
    List.eq_nil_iff_forall_not_mem.2 fun p hp => (hmessage p hp).2 (hcnt ▸ h0)
  obtain ⟨v, hexec, hst, -, hdstLen, hdst⟩ := exec_unpack_of_codes (s := { u with status := s.status })
    (by rw [hu]; exact hok) hr (by rw [hu]; exact hs) hps hnone hbits (by rw [hu, length_message]; exact hfits)
  refine ⟨v, hexec, hst, BitVec.eq_of_toNat_eq (by rw [hdstLen, length_message]), fun i hi => ?_⟩
  exact hdst i (s.srcByte i, s.codeBits (s.srcByte i)) (by rw [State.message, List.getElem?_map, getElem?_srcBytes hi]; rfl)

/-- Settles O34: WALK writes the codes of the tree and changes nothing else that PACK and UNPACK read. -/
theorem unpackInvertsPack : Obligations.UnpackInvertsPack := by
  intro s t u hok hr hs hwalk hpack hfine
  have hcodes := walkTable_of_exec_walk hr hs hwalk
  obtain ⟨-, -, hframe, -⟩ := tableCommandsFrame
  obtain ⟨code, hid, st, era, rfl⟩ : ∃ code hid st era,
      t = { s with code := code, hidden := hid, status := st, cmdEra := era } := ⟨_, _, _, _, (hframe s t hwalk).1⟩
  refine exec_unpack_of_packed (s := { s with code := code, hidden := hid, cmdEra := era }) hok hr hs (Eq.trans ?_ hcodes)
    hpack hfine
  exact walkTable_congr hs rfl rfl

/-! ### Errors, and no bits -/

/-- Settles O32: the loop ends inside a code, or at a 1 bit over a single leaf. -/
theorem unpackRejectsABrokenStream : Obligations.UnpackRejectsABrokenStream := by
  intro s hr hs
  refine ⟨fun ps tail hthree hps hbits hlen hne ⟨m, hm, hint⟩ => ?midCode, fun j h1 hj hmax hzeros hone => ?oneBit⟩
  case midCode =>
    have hlarge : ∀ n : BitVec 9, n.toNat < 3 → s.nodeCnt ≠ n := fun n hn heq => by rw [heq] at hthree; omega
    obtain ⟨v, hv⟩ := unpackRun_mid_code hs (hlarge 0 (by decide)) (hlarge 1 (by decide)) hps hbits hlen hne hm hint
    obtain ⟨t, hexec, hst, hinfo, hdst⟩ := exec_unpack_of_raised hr hs (hlarge 0 (by decide))
      (by rw [hbits]; exact List.append_ne_nil_of_right_ne_nil _ hne) hv
    exact ⟨t, hexec, hst, by rw [hinfo, BitVec.ofNat_toNat, BitVec.setWidth_eq], hdst⟩
  case oneBit =>
    obtain ⟨v, hv⟩ := unpackRun_one_bit hs h1 hj hmax hzeros hone
    exact exec_unpack_of_raised hr hs (by rw [h1]; decide)
      (List.ne_nil_of_length_pos (by rw [length_payBits]; exact Nat.zero_lt_of_lt hj)) hv

/-- Settles O33: the loop takes in N_MAX codes, and the next one's last bit raises. -/
theorem unpackRefusesALongOutput : Obligations.UnpackRefusesALongOutput := by
  intro s ps last rest hr hs h0 hps hlast hlen hbits
  have hbits : s.payBits = ps.flatMap Prod.snd ++ (last.2 ++ rest) := by rw [hbits, List.append_assoc]
  obtain ⟨i, v, hv, hi⟩ := unpackRun_long hs h0 hps hlast hlen hbits
  have hlong : (ps.flatMap Prod.snd).length + last.2.length ≤ s.bitLen.toNat := by
    rw [← length_payBits, hbits, List.length_append, List.length_append]; omega
  obtain ⟨t, hexec, hst, hinfo, hdst⟩ := exec_unpack_of_raised hr hs h0
    (List.ne_nil_of_length_pos (by rw [length_payBits]; omega)) hv
  refine ⟨t, hexec, hst, ?_, hdst⟩
  rw [hinfo, BitVec.toNat_ofNat, Nat.mod_eq_of_lt (by omega)]
  exact hi

theorem unpackUnit_of_no_bits {s : State} (h : s.bitLen = 0) :
    unpackUnit s = .done { s with dstLen := 0, hidden := { s.hidden with upO := 0 } } := if_pos h

theorem unpackUnit_of_no_tree {s : State} (hbits : s.bitLen ≠ 0) (h0 : s.nodeCnt = 0) :
    unpackUnit s = .raised .corruptContainer 0 { s with hidden := { s.hidden with upO := 0 } } := by
  rw [unpackUnit, if_neg hbits, if_pos h0]

/-- Settles O30: UNPACK stops before its loop. -/
theorem unpackOfNothing : Obligations.UnpackOfNothing := by
  intro s hok hr
  refine ⟨fun hbits => ?noBits, fun hbits h0 => ?noTree⟩
  case noBits =>
    obtain ⟨hexec, hst, -⟩ := exec_of_completes (i := .unpack) rfl hok hr
      ⟨_, unpackUnit_of_no_bits (s := enterPhase .unpack (accepted .unpack s)) hbits, rfl⟩
    exact ⟨_, hexec, hst, rfl, rfl⟩
  case noTree =>
    obtain ⟨hid, hexec⟩ := exec_of_first_raised_frame (i := .unpack) rfl hr
      (unpackUnit_of_no_tree (s := enterPhase .unpack (accepted .unpack s)) hbits h0)
    exact ⟨_, hexec, rfl, rfl, rfl, rfl⟩

end Sys2Proof.Machine
end

section
/-! PROOFS. PARSE (R186 to R192): what its checks find in a header, entry by entry, what the entries of an accepted container
load, and the container that FRAME wrote. Settles O27, O28 and O29. -/

namespace Sys2Proof.Machine

/-! ### The command -/

theorem parseChecks_accepted (s : State) : parseChecks (enterPhase .parse (accepted .parse s)) = parseChecks s :=
  parseChecks_congr (s := s) (fun _ _ => rfl) rfl rfl

/-- PARSE of a container that passes the checks finishes, with the container loaded (R93, R186). -/
theorem exec_parse_of_ok {s : State} {c : Parsed} (hs : s.statusOk = true) (hr : s.ready = true)
    (h : parseChecks s = .ok c) :
    ∃ t, exec .parse s = .next t ∧ t.status = Status.finished ∧ t.errInfo = 0 ∧ t.freq = loadEntries c.entries ∧
      t.bitLen = BitVec.ofNat 32 c.bits ∧ ∀ j < ceil8 c.bits, t.payByte j = s.srcByte (c.hdr + j) := by
  obtain ⟨u, hu, hfreq, hbitLen, hpay⟩ := parseUnit_of_ok ((parseChecks_accepted s).trans h)
  obtain ⟨hexec, hst, hinfo⟩ := exec_of_completes (i := .parse) rfl hs hr ⟨u, hu, rfl⟩
  exact ⟨_, hexec, hst, hinfo, hfreq, hbitLen, hpay⟩

/-- PARSE of a container that fails a check clears FREQ and BITLEN and latches the check's error (R190, R205). -/
theorem exec_parse_of_error {s : State} {e : ErrCode} {info : Nat} (hr : s.ready = true)
    (h : parseChecks s = .error (e, info)) :
    ∃ (hid : Hidden) (era : Nat), exec .parse s =
      .next { s with
        freq := zeroFreq
        bitLen := 0
        status := Status.failed e .parse
        errInfo := BitVec.ofNat 32 info
        hidden := hid
        cmdEra := era } := by
  obtain ⟨hid, hexec⟩ := exec_of_first_raised_frame (i := .parse) rfl hr
    (parseUnit_of_error ((parseChecks_accepted s).trans h))
  exact ⟨hid, _, hexec⟩

/-! ### Entries in SRC -/

/-- The bytes of a number bound it (R44). -/
theorem beNat_lt (bs : List Byte) : beNat bs < 256 ^ bs.length := by
  induction bs using List.reverseRecOn with
  | nil => exact Nat.zero_lt_one
  | append_singleton bs b ih =>
    have hb := b.isLt
    rw [beNat_concat, List.length_append, List.length_singleton, Nat.pow_succ]; omega

theorem srcRead_lt (s : State) (a n : Nat) : s.srcRead a n < 256 ^ n := by
  have h := beNat_lt (s.srcSlice a n)
  rwa [length_srcSlice] at h

/-- A number of four bytes fits a register. -/
theorem toNat_ofNat_srcRead (s : State) (a : Nat) : (BitVec.ofNat 32 (s.srcRead a 4)).toNat = s.srcRead a 4 :=
  Nat.mod_eq_of_lt (srcRead_lt s a 4)

/-- Entry i of the container in SRC (R70). -/
def State.srcEntry (s : State) (i : Nat) : Byte × Word :=
  (s.srcByte (2 + 5 * i), BitVec.ofNat 32 (s.srcRead (3 + 5 * i) 4))

/-- The first `n` entries, in the order in which they stand in SRC. -/
def State.srcEntries (s : State) (n : Nat) : List (Byte × Word) := (List.range n).map s.srcEntry

/-- Entry i passes step 5 of R188: its frequency is not 0, and its symbol is new. -/
def State.entryOk (s : State) (i : Nat) : Prop :=
  s.srcRead (3 + 5 * i) 4 ≠ 0 ∧ ∀ j < i, s.srcByte (2 + 5 * i) ≠ s.srcByte (2 + 5 * j)

theorem srcEntries_succ (s : State) (n : Nat) : s.srcEntries (n + 1) = s.srcEntries n ++ [s.srcEntry n] := by
  simp [State.srcEntries, List.range_succ]

/-- The entries' frequencies lose nothing in FREQ's words, so their sum is that of the numbers in SRC. -/
theorem freqSum_srcEntries (s : State) (n : Nat) :
    freqSum (s.srcEntries n) = ((List.range n).map fun i => s.srcRead (3 + 5 * i) 4).sum := by
  rw [freqSum, State.srcEntries, List.map_map]
  exact congrArg List.sum (List.map_congr_left fun i _ => toNat_ofNat_srcRead s _)

/-- Step 5 looks for an entry's symbol among the entries before it. -/
theorem any_srcEntries {s : State} {i : Nat} {b : Byte} :
    (s.srcEntries i).reverse.any (fun e => e.1 == b) = true ↔ ∃ j < i, s.srcByte (2 + 5 * j) = b := by
  simp [State.srcEntries, State.srcEntry]

/-- An entry that passes joins those before it. -/
theorem parseEntries_of_entryOk {s : State} {i : Nat} (h : s.entryOk i) (n : Nat) :
    parseEntries s (n + 1) i (s.srcEntries i).reverse = parseEntries s n (i + 1) (s.srcEntries (i + 1)).reverse := by
  obtain ⟨hfreq, hsym⟩ := h
  have hnew : ¬ (s.srcEntries i).reverse.any (fun e => e.1 == s.srcByte (2 + 5 * i)) = true := fun hany => by
    obtain ⟨j, hj, heq⟩ := any_srcEntries.1 hany
    exact hsym j hj heq.symm
  rw [parseEntries, show 2 + 5 * i + 1 = 3 + 5 * i by omega, if_neg hfreq, if_neg hnew, srcEntries_succ,
    List.reverse_concat]
  rfl

/-- An entry that does not pass stops PARSE, at the entry's offset. -/
theorem parseEntries_of_not_entryOk {s : State} {i : Nat} (h : ¬ s.entryOk i) (n : Nat) :
    parseEntries s (n + 1) i (s.srcEntries i).reverse = .error (2 + 5 * i) := by
  rw [parseEntries, show 2 + 5 * i + 1 = 3 + 5 * i by omega]
  by_cases hfreq : s.srcRead (3 + 5 * i) 4 = 0
  · exact if_pos hfreq
  · have hseen : ∃ j < i, s.srcByte (2 + 5 * j) = s.srcByte (2 + 5 * i) := by
      by_contra hnone
      exact h ⟨hfreq, fun j hj heq => hnone ⟨j, hj, heq.symm⟩⟩
    rw [if_neg hfreq]
    exact if_pos (any_srcEntries.2 hseen)

/-- PARSE reads on past the entries that pass. -/
theorem parseEntries_skip {s : State} {i n : Nat} (h : ∀ j < i, s.entryOk j) :
    parseEntries s (i + n) 0 [] = parseEntries s n i (s.srcEntries i).reverse := by
  induction i generalizing n with
  | zero => rw [Nat.zero_add]; rfl
  | succ i ih =>
    rw [Nat.add_assoc, Nat.add_comm 1, ih fun j hj => h j (Nat.lt_succ_of_lt hj),
      parseEntries_of_entryOk (h i (Nat.lt_succ_self i))]

theorem parseEntries_of_all_ok {s : State} {k : Nat} (h : ∀ i < k, s.entryOk i) :
    parseEntries s k 0 [] = .ok (s.srcEntries k) := by
  have hskip := parseEntries_skip (n := 0) h
  rwa [parseEntries, List.reverse_reverse] at hskip

theorem parseEntries_of_first_not_ok {s : State} {k i : Nat} (hi : i < k) (hbefore : ∀ j < i, s.entryOk j)
    (hbad : ¬ s.entryOk i) : parseEntries s k 0 [] = .error (2 + 5 * i) := by
  obtain ⟨n, rfl⟩ := Nat.exists_eq_add_of_lt hi
  rw [Nat.add_assoc, parseEntries_skip hbefore, parseEntries_of_not_entryOk hbad]

/-! ### The checks -/

theorem parseChecks_of_long {s : State} (h : s.srcLen.toNat > s.bufBytes) :
    parseChecks s = .error (.capacity, s.bufBytes) := if_pos h

section Checks
variable {s : State} (hfit : s.srcLen.toNat ≤ s.bufBytes)
include hfit

theorem parseChecks_of_no_count (h : s.srcLen.toNat < 2) : parseChecks s = .error (.malformedTable, s.srcLen.toNat) := by
  rw [parseChecks, if_neg (by omega), if_pos h]

theorem parseChecks_of_many_entries (hlen : 2 ≤ s.srcLen.toNat) (h : s.srcRead 0 2 > 256) :
    parseChecks s = .error (.malformedTable, 0) := by
  rw [parseChecks, if_neg (by omega), if_neg (by omega), if_pos h]

theorem parseChecks_of_short_header (hlen : 2 ≤ s.srcLen.toNat) (hcount : s.srcRead 0 2 ≤ 256)
    (h : s.srcLen.toNat < 6 + 5 * s.srcRead 0 2) : parseChecks s = .error (.malformedTable, s.srcLen.toNat) := by
  simp only [parseChecks]
  rw [if_neg (by omega), if_neg (by omega), if_neg (by omega), if_pos h]

/-- Under a header that SRC holds whole, the first entry that fails step 5 of R188 is reported by its offset. -/
theorem parseChecks_of_bad_entry {i : Nat} (hcount : s.srcRead 0 2 ≤ 256)
    (hheader : 6 + 5 * s.srcRead 0 2 ≤ s.srcLen.toNat) (hi : i < s.srcRead 0 2) (hbefore : ∀ j < i, s.entryOk j)
    (hbad : ¬ s.entryOk i) : parseChecks s = .error (.malformedTable, 2 + 5 * i) := by
  simp only [parseChecks, parseEntries_of_first_not_ok hi hbefore hbad]
  rw [if_neg (by omega), if_neg (by omega), if_neg (by omega), if_neg (by omega)]

/-- Where all the entries pass, the last three checks are left (R188, steps 6 to 8). -/
theorem parseChecks_of_entries_ok (hcount : s.srcRead 0 2 ≤ 256) (hheader : 6 + 5 * s.srcRead 0 2 ≤ s.srcLen.toNat)
    (hok : ∀ i < s.srcRead 0 2, s.entryOk i) :
    parseChecks s =
      let h := 6 + 5 * s.srcRead 0 2
      let b := s.srcRead (h - 4) 4
      if s.srcRead 0 2 = 0 ∧ b ≠ 0 then .error (.malformedTable, h - 4)
      else if ((List.range (s.srcRead 0 2)).map fun i => s.srcRead (3 + 5 * i) 4).sum > s.cfg.nMax then .error (.capacity, 2)
      else if s.srcLen.toNat ≠ h + ceil8 b then .error (.corruptContainer, min s.srcLen.toNat (h + ceil8 b))
      else .ok ⟨s.srcEntries (s.srcRead 0 2), b, h⟩ := by
  simp only [parseChecks, parseEntries_of_all_ok hok, freqSum_srcEntries]
  rw [if_neg (by omega), if_neg (by omega), if_neg (by omega), if_neg (by omega)]

end Checks

/-- Settles O28: the check that fails, and the command with its error. -/
theorem parseReportsTheFirstError : Obligations.ParseReportsTheFirstError := by
  intro s hr
  refine ⟨fun hlong => ?long, fun hfit hshort => ?noCount, fun hfit hlen hmany => ?manyEntries,
    fun hfit hlen hcount hshort => ?shortHeader, fun i hfit hcount hheader hi hbefore hbad => ?badEntry,
    fun hfit hheader hempty hbits => ?bitsOfNone, fun hfit hcount hheader hok hnone hsum => ?longSum,
    fun hfit hcount hheader hok hnone hsum hlen => ?payload⟩
  case long => exact exec_parse_of_error hr (parseChecks_of_long hlong)
  case noCount => exact exec_parse_of_error hr (parseChecks_of_no_count hfit hshort)
  case manyEntries => exact exec_parse_of_error hr (parseChecks_of_many_entries hfit hlen hmany)
  case shortHeader => exact exec_parse_of_error hr (parseChecks_of_short_header hfit hlen hcount hshort)
  case badEntry => exact exec_parse_of_error hr (parseChecks_of_bad_entry hfit hcount hheader hi hbefore hbad)
  case bitsOfNone =>
    have hchecks := parseChecks_of_entries_ok hfit (hempty.trans_le (Nat.zero_le _)) hheader
      fun i hi => absurd (hempty ▸ hi) (Nat.not_lt_zero i)
    dsimp only at hchecks
    rw [if_pos ⟨hempty, hbits⟩, hempty] at hchecks
    exact exec_parse_of_error hr hchecks
  case longSum =>
    have hchecks := parseChecks_of_entries_ok hfit hcount hheader hok
    dsimp only at hchecks
    rw [if_neg fun ⟨hempty, hbits⟩ => hbits (hnone hempty), if_pos hsum] at hchecks
    exact exec_parse_of_error hr hchecks
  case payload =>
    have hchecks := parseChecks_of_entries_ok hfit hcount hheader hok
    dsimp only at hchecks
    rw [if_neg fun ⟨hempty, hbits⟩ => hbits (hnone hempty), if_neg (not_lt.2 hsum), if_pos hlen] at hchecks
    exact exec_parse_of_error hr hchecks

/-! ### The table that entries load -/

section Load
variable {es : List (Byte × Word)}

theorem atSym_foldl_setSym_of_not_mem {b : Byte} (hb : b ∉ es.map Prod.fst) (g : Vector Word 256) :
    atSym (es.foldl (fun f e => setSym f e.1 e.2) g) b = atSym g b := by
  induction es generalizing g with
  | nil => rfl
  | cons e es ih =>
    rw [List.map_cons, List.mem_cons, not_or] at hb
    obtain ⟨hne, hb⟩ := hb
    rw [List.foldl_cons, ih hb, atSym_setSym_ne _ _ hne]

/-- Entries of distinct symbols each keep their place. -/
theorem atSym_foldl_setSym_of_mem (hnodup : (es.map Prod.fst).Nodup) {e : Byte × Word} (he : e ∈ es)
    (g : Vector Word 256) : atSym (es.foldl (fun f e => setSym f e.1 e.2) g) e.1 = e.2 := by
  induction es generalizing g with
  | nil => cases he
  | cons e' es ih =>
    rw [List.map_cons, List.nodup_cons] at hnodup
    obtain ⟨hnew, hnodup⟩ := hnodup
    rw [List.foldl_cons]
    rcases List.mem_cons.1 he with rfl | he
    · rw [atSym_foldl_setSym_of_not_mem hnew, atSym_setSym_same]
    · exact ih hnodup he _

/-- A symbol without an entry is absent (R186). -/
theorem atSym_loadEntries_of_not_mem {b : Byte} (hb : b ∉ es.map Prod.fst) : atSym (loadEntries es) b = 0 :=
  (atSym_foldl_setSym_of_not_mem hb zeroFreq).trans (atSym_replicate 0 b)

theorem atSym_loadEntries_of_mem (hnodup : (es.map Prod.fst).Nodup) {e : Byte × Word} (he : e ∈ es) :
    atSym (loadEntries es) e.1 = e.2 :=
  atSym_foldl_setSym_of_mem hnodup he zeroFreq

/-- The present symbols are those of the entries, whatever the order in which these stand. -/
theorem presentSymbols_loadEntries_perm (hnodup : (es.map Prod.fst).Nodup) (hpos : ∀ e ∈ es, e.2 ≠ 0) :
    (presentSymbols (loadEntries es)).Perm (es.map Prod.fst) := by
  refine (List.perm_ext_iff_of_nodup (nodup_presentSymbols _) hnodup).2 fun b =>
    mem_presentSymbols.trans ⟨fun h => ?_, fun h => ?_⟩
  · exact by_contra fun hb => h (atSym_loadEntries_of_not_mem hb)
  · obtain ⟨e, he, rfl⟩ := List.mem_map.1 h
    rw [atSym_loadEntries_of_mem hnodup he]; exact hpos e he

end Load

theorem length_srcEntries (s : State) (n : Nat) : (s.srcEntries n).length = n := by simp [State.srcEntries]

theorem mem_srcEntries {s : State} {n : Nat} {e : Byte × Word} : e ∈ s.srcEntries n ↔ ∃ i < n, s.srcEntry i = e := by
  simp [State.srcEntries]

section Passed
variable {s : State} {k : Nat} (h : ∀ i < k, s.entryOk i)
include h

/-- Entries that pass have distinct symbols. -/
theorem nodup_symbols_srcEntries : ((s.srcEntries k).map Prod.fst).Nodup := by
  rw [State.srcEntries, List.map_map]
  refine List.Nodup.map_on (fun i hi j hj heq => ?_) List.nodup_range
  rw [List.mem_range] at hi hj
  rcases lt_trichotomy i j with hlt | rfl | hlt
  · exact absurd heq.symm ((h j hj).2 i hlt)
  · rfl
  · exact absurd heq ((h i hi).2 j hlt)

theorem srcEntries_ne_zero : ∀ e ∈ s.srcEntries k, e.2 ≠ 0 := fun e he h0 => by
  obtain ⟨i, hi, rfl⟩ := mem_srcEntries.1 he
  have hread := toNat_ofNat_srcRead s (3 + 5 * i)
  exact (h i hi).1 (hread.symm.trans (congrArg BitVec.toNat h0))

end Passed

/-- Settles O27: all the checks pass, and the entries load FREQ. -/
theorem parseLoadsTheContainer : Obligations.ParseLoadsTheContainer := by
  rintro s _ _ hs hr hfit hlen rfl hcount rfl hall hfreq hsym hnone hsum
  have hok : ∀ i < s.srcRead 0 2, s.entryOk i := fun i hi => ⟨hfreq i hi, hsym i hi⟩
  have hnodup := nodup_symbols_srcEntries hok
  have hchecks := parseChecks_of_entries_ok hfit hcount (by omega) hok
  dsimp only at hchecks
  rw [show 6 + 5 * s.srcRead 0 2 - 4 = 2 + 5 * s.srcRead 0 2 by omega,
    if_neg fun ⟨hempty, hbits⟩ => hbits (hnone hempty), if_neg (not_lt.2 hsum), if_neg (not_not.2 hall)] at hchecks
  obtain ⟨t, hexec, hst, hinfo, hload, hbitLen, hpay⟩ := exec_parse_of_ok hs hr hchecks
  refine ⟨t, hexec, hst, hinfo, ?bitLen, ?count, fun i hi => ?entry, fun x hx => ?absent, hpay⟩
  case bitLen => rw [hbitLen]; exact toNat_ofNat_srcRead s _
  case count =>
    have hperm := presentSymbols_loadEntries_perm hnodup (srcEntries_ne_zero hok)
    rw [State.kView, hload, hperm.length_eq, List.length_map, length_srcEntries]
  case entry =>
    have hentry := atSym_loadEntries_of_mem hnodup (mem_srcEntries.2 ⟨i, hi, rfl⟩)
    rw [hload]
    exact (congrArg BitVec.toNat hentry).trans (toNat_ofNat_srcRead s _)
  case absent =>
    rw [hload]
    refine atSym_loadEntries_of_not_mem fun hmem => ?_
    obtain ⟨e, he, rfl⟩ := List.mem_map.1 hmem
    obtain ⟨i, hi, rfl⟩ := mem_srcEntries.1 he
    exact hx i hi rfl

/-! ### After FRAME -/

theorem holdsFrame_of_frameUnit {s t : State} (h : frameUnit s = .done t) : t.HoldsFrame := by
  by_cases hfit : s.frameLen ≤ s.bufBytes
  · rw [frameUnit_eq_framed hfit] at h
    cases h
    exact holdsFrame_framed hfit
  · rw [frameUnit_of_long (not_le.1 hfit)] at h
    cases h

/-- What FRAME leaves without an error: the container in DST, and the table and the payload as they were. -/
theorem exec_frame_done {s t : State} (hr : s.ready = true) (h : exec .frame s = .next t) (hok : t.status.err = .noError) :
    t.HoldsFrameBytes ∧ t.HoldsFrame ∧
      t = { s with dst := t.dst, dstLen := t.dstLen, hidden := t.hidden, status := t.status, cmdEra := t.cmdEra } := by
  obtain ⟨u, hu, rfl⟩ := exec_single_done (p := .frame) rfl hr h hok
  have hwrites : u = _ := (unitOf_writes .frame _).of_done hu
  obtain ⟨hlength, hroom, hbytes⟩ := holdsFrameBytes_of_frameUnit hu
  obtain ⟨hlen, hheader, hpay⟩ := holdsFrame_of_frameUnit hu
  exact ⟨⟨hlength, hroom, hbytes⟩, ⟨hlen, hheader, hpay⟩, by rw [hwrites]; rfl⟩

/-- A core whose SRC holds the container in another's DST loads the other's table and payload from it. -/
theorem exec_parse_of_output {t u : State} (hbytes : t.HoldsFrameBytes) (hframe : t.HoldsFrame) (hs : u.statusOk = true)
    (hr : u.ready = true) (hcfg : u.cfg = t.cfg) (hsum : t.freqOk) (hnone : 1 ≤ t.kView ∨ t.bitLen = 0)
    (hlen : u.srcLen = t.dstLen) (hsrc : ∀ i < t.dstLen.toNat, u.srcByte i = t.dstByte i) :
    ∃ v, exec .parse u = .next v ∧ v.status = Status.finished ∧ v.freq = t.freq ∧ v.bitLen = t.bitLen ∧
      ∀ j < ceil8 t.bitLen.toNat, v.payByte j = t.payByte j := by
  have hfit : u.srcLen.toNat ≤ u.bufBytes := by
    rw [hlen, State.bufBytes, hcfg]; exact hbytes.toNat_dstLen.trans_le hbytes.room
  have hempty : presentSymbols t.freq = [] → t.payBits = [] := fun hnil => by
    have hzero : t.bitLen = 0 := hnone.resolve_left fun hk => by rw [State.kView, hnil] at hk; cases hk
    rw [State.payBits, hzero]; rfl
  have hchecks := parseChecks_of_holdsContainer (holdsContainer_of_output hbytes hlen hsrc) hfit (hcfg ▸ hsum) hempty
  rw [length_payBits] at hchecks
  obtain ⟨v, hexec, hst, -, hfreq, hbitLen, hpay⟩ := exec_parse_of_ok hs hr hchecks
  refine ⟨v, hexec, hst, hfreq.trans (loadEntries_tableEntries _), ?_, fun j hj => ?_⟩
  · rw [hbitLen, BitVec.ofNat_toNat, BitVec.setWidth_eq]
  · have hin : 6 + 5 * t.kView + j < t.dstLen.toNat := by rw [hframe.length]; omega
    exact (hpay j hj).trans ((hsrc _ hin).trans (hframe.payload j hj))

/-- Settles O29: FRAME leaves FREQ, BITLEN and PAY alone, and PARSE loads them from its output. -/
theorem parseAfterFrameRestores : Obligations.ParseAfterFrameRestores := by
  intro s t u hr hsum hnone hexec hok hus hur hcfg hlen hsrc
  obtain ⟨hbytes, hframe, ht⟩ := exec_frame_done hr hexec hok
  have hfreq : t.freq = s.freq := by rw [ht]
  have hbitLen : t.bitLen = s.bitLen := by rw [ht]
  have htcfg : t.cfg = s.cfg := by rw [ht]
  have hpay : ∀ j, t.payByte j = s.payByte j := fun j => by rw [ht]; rfl
  obtain ⟨v, hparse, hst, hvfreq, hvbits, hvpay⟩ := exec_parse_of_output hbytes hframe hus hur (hcfg.trans htcfg.symm)
    (by rw [State.freqOk, hfreq, htcfg]; exact hsum) (by rw [State.kView, hfreq, hbitLen]; exact hnone) hlen hsrc
  rw [hbitLen] at hvpay
  exact ⟨v, hparse, hst, hvfreq.trans hfreq, hvbits.trans hbitLen, fun j hj => (hvpay j hj).trans (hpay j)⟩

end Sys2Proof.Machine
end

section
/-! PROOFS. The STATUS word and the `irq` pin (R22, R23, R212): the fields of the word stand side by side, and `irq` needs DONE
or an error, which neither a running command nor a cleared status has. Settles O47. -/

namespace Sys2Proof.Machine

/-! ### The STATUS word -/

section Word

open BitVec (extractLsb'_append_eq_of_le extractLsb'_append_eq_right getLsbD_append)

/-- The fields of STATUS (R23), found from bit 0 upwards by dropping the fields below each. -/
theorem statusWord_fields (st : Status) :
    st.word.getLsbD 0 = st.busy ∧ st.word.getLsbD 1 = st.done ∧ st.word.extractLsb' 2 2 = 0 ∧
      st.word.extractLsb' 4 4 = st.err.code ∧ st.word.extractLsb' 8 4 = st.phase.code ∧
      st.word.extractLsb' 12 4 = st.ephase.code ∧ st.word.extractLsb' 16 16 = 0 := by
  refine ⟨?busy, ?done, ?low, ?err, ?phase, ?ephase, ?high⟩
  case busy => exact getLsbD_append.trans (by simp)
  case done => exact getLsbD_append.trans (getLsbD_append.trans (by simp))
  case low =>
    iterate 2 refine (extractLsb'_append_eq_of_le (by decide)).trans ?_
    exact extractLsb'_append_eq_right
  case err =>
    iterate 3 refine (extractLsb'_append_eq_of_le (by decide)).trans ?_
    exact extractLsb'_append_eq_right
  case phase =>
    iterate 4 refine (extractLsb'_append_eq_of_le (by decide)).trans ?_
    exact extractLsb'_append_eq_right
  case ephase =>
    iterate 5 refine (extractLsb'_append_eq_of_le (by decide)).trans ?_
    exact extractLsb'_append_eq_right
  case high =>
    iterate 6 refine (extractLsb'_append_eq_of_le (by decide)).trans ?_
    exact BitVec.extractLsb'_eq_self

end Word

/-! ### The pin -/

theorem irq_iff {s : State} :
    s.irq = true ↔
      (s.intEn.getLsbD 0 = true ∧ s.status.done = true) ∨ (s.intEn.getLsbD 1 = true ∧ s.status.err ≠ .noError) := by
  simp [State.irq, State.ieDone, State.ieErr]

theorem irq_eq_false {s : State} (hd : s.status.done = false) (he : s.status.err = .noError) : s.irq = false := by
  simp [State.irq, hd, he]

/-- STATUS while a command runs (R22, R92). -/
theorem status_of_busy {s : State} (hs : s.statusOk = true) (hb : s.status.busy = true) :
    s.status.done = false ∧ s.status.err = .noError := by
  cases hf : s.flight with
  | none =>
    obtain ⟨hidle, -⟩ := latchOk_iff.1 (statusOk_of_idle hf ▸ hs)
    exact absurd hb (by simp [hidle])
  | some f =>
    obtain ⟨hst, -⟩ := flightOk_iff.1 ((statusOk_of_flight hf).1 hs).1
    rw [hst]; exact ⟨rfl, rfl⟩

/-- Settles O47: the fields of the word, the formula, and DONE = 0 with ERR = 0 in the three states whose `irq` is 0. -/
theorem statusWordAndIrq : Obligations.StatusWordAndIrq := by
  refine ⟨statusWord_fields, fun s => irq_iff, fun s hs hb => ?busy, fun s t hb h => ?cleared, irq_eq_false rfl rfl⟩
  case busy =>
    obtain ⟨hd, he⟩ := status_of_busy hs hb
    exact irq_eq_false hd he
  case cleared =>
    rw [exec_clrst_of_idle hb] at h
    cases h
    exact irq_eq_false rfl rfl

end Sys2Proof.Machine
end

section
/-! PROOFS. The state after reset (R231), and a host that waits for a command's end (R81, R240, R242). Settles O8, O50 and
O51. -/

namespace Sys2Proof.Machine

/-! ### Reset -/

/-- No symbol is present after reset. -/
theorem kView_reset : State.reset.kView = 0 := by
  rw [kView_eq_countP, List.countP_eq_zero]
  intro b _
  simp [State.reset, State.resetOf]

/-- Settles O8: every register is 0, the tables' entries are 0 or invalid, and the memories and the arena hold nothing. -/
theorem resetStateHoldsTheSpecValues : Obligations.ResetStateHoldsTheSpecValues :=
  ⟨rfl, rfl, rfl, irq_eq_false rfl rfl, rfl, rfl, rfl, rfl, rfl, rfl, rfl, rfl, atSym_replicate 0, kView_reset, rfl,
    atSym_replicate none, rfl, rfl, fun _ _ => ⟨rfl, rfl, rfl⟩, fun _ _ => rfl, rfl, rfl⟩

/-- An invariant of the tables holds of the machine's first state, since a reset leaves the same tables. -/
theorem TableInvariant.atReset {P : State → Prop} (hP : TableInvariant P) : P State.reset :=
  hP.congr (s := resetCore State.reset) rfl (hP.reset State.reset)

/-- Settles O51: the tables meet their invariants as after any reset, STATUS is 0, and no byte is written. -/
theorem resetMeetsTheInvariants : Obligations.ResetMeetsTheInvariants := by
  obtain ⟨htree, hcodes⟩ := tablesOk_tableInvariant.atReset
  obtain ⟨hpay, hdst⟩ := bytesOk_tableInvariant.atReset
  exact ⟨rfl, rfl, freqOk_tableInvariant.atReset, htree, hcodes, hpay, hdst⟩

/-! ### WAIT -/

/-- A run of at least one step goes on from where its first step leads. -/
theorem run_succ_of_step {M : Host.Core} {s t : M.State} (h : M.step s = .next t) (n : Nat) :
    M.run (n + 1) s = M.run n t := by
  simp only [Host.Core.run, h]

/-- A poll while time leaves the core busy returns STATUS and is made again (R81). -/
theorem step_wait_of_busy {s : State} {rest : List HostOp} (hq : s.host = .wait :: rest)
    (hb : (tick { s with host := rest }).status.busy = true) :
    ∃ v, step s = .next { reply v (tick { s with host := rest }) with host := .wait :: rest } := by
  obtain ⟨v, hread⟩ := hostRead_of_busy hb 0x08
  exact ⟨v, by simp only [step, hq, hostStep, hread, hb, if_true, reply, tick_host]⟩

/-- A poll that finds the core idle ends WAIT, and the host has seen BUSY = 0 (R81, R236). -/
theorem step_wait_of_idle {s : State} {rest : List HostOp} (hq : s.host = .wait :: rest)
    (hb : (tick { s with host := rest }).status.busy = false) :
    step s = .next (seeIdle (reply (tick { s with host := rest }).status.word (tick { s with host := rest }))) := by
  have hread : hostRead 0x08 (tick { s with host := rest }) =
      seeIdle (reply (tick { s with host := rest }).status.word (tick { s with host := rest })) := if_neg (by simp [hb])
  simp only [step, hq, hostStep, hread, hb, Bool.false_eq_true, if_false]

/-- `t` is the state of a host past WAIT: the command's STATUS and ERR_INFO are in place and no command runs. -/
def State.pastWait (f : Flight) (rest : List HostOp) (t : State) : Prop :=
  t.flight = none ∧ t.unseen = false ∧ t.status = f.final ∧ t.errInfo = f.info ∧ t.host = rest ∧
    t.replies.head? = some f.final.word

section Window
variable {s : State} {f : Flight} {rest : List HostOp} (hs : s.statusOk = true) (hf : s.flight = some f)
  (hq : s.host = .wait :: rest)
include hs hf hq

/-- Where the window holds no more transaction, WAIT's next poll ends it. -/
theorem step_wait_ends (h0 : f.left = 0) : ∃ t, step s = .next t ∧ t.pastWait f rest := by
  obtain ⟨-, -, -, -, hlatch, -⟩ := flightOk_iff.1 ((statusOk_of_flight hf).1 hs).1
  obtain ⟨hidle, -⟩ := latchOk_iff.1 hlatch
  have htick := (windowShowsTheCommandsPhases.2 { s with host := rest } f hf).1 h0
  have hstep := step_wait_of_idle hq (by rw [htick]; exact hidle)
  rw [htick] at hstep
  exact ⟨_, hstep, rfl, rfl, rfl, rfl, rfl, rfl⟩

/-- Inside the window a poll leaves the host waiting, with one transaction less to come. -/
theorem step_wait_goes_on {n : Nat} (hn : f.left = n + 1) :
    ∃ t ps, step s = .next t ∧ t.statusOk = true ∧ t.flight = some { f with left := n, phases := ps } ∧
      t.host = .wait :: rest := by
  obtain ⟨hst, -, hne, -⟩ := flightOk_iff.1 ((statusOk_of_flight hf).1 hs).1
  obtain ⟨p, ps, -, htick⟩ := (windowShowsTheCommandsPhases.2 { s with host := rest } f hf).2 n hn hne
  obtain ⟨v, hstep⟩ := step_wait_of_busy hq (by rw [htick, hst])
  rw [htick] at hstep
  exact ⟨_, p :: ps, hstep, stepKeepsTheStatusRules _ _ hs hstep, rfl, rfl⟩

end Window

/-- WAIT runs through the window, transaction by transaction, and then past its end. -/
theorem run_wait {n : Nat} {s : State} {f : Flight} {rest : List HostOp} (hs : s.statusOk = true) (hf : s.flight = some f)
    (hq : s.host = .wait :: rest) (hn : f.left = n) : ∃ t, core.run (n + 1) s = .next t ∧ t.pastWait f rest := by
  induction n generalizing s f with
  | zero =>
    obtain ⟨t, hstep, ht⟩ := step_wait_ends hs hf hq hn
    exact ⟨t, run_succ_of_step hstep 0, ht⟩
  | succ n ih =>
    obtain ⟨u, ps, hstep, hus, huf, huq⟩ := step_wait_goes_on hs hf hq hn
    obtain ⟨t, hrun, ht⟩ := ih hus huf huq rfl
    exact ⟨t, (run_succ_of_step hstep (n + 1)).trans hrun, ht⟩

/-- Settles O50: by induction on the transactions left in the window. -/
theorem waitingForACommandEnds : Obligations.WaitingForACommandEnds := fun _ _ _ hs hf hq => run_wait hs hf hq rfl

end Sys2Proof.Machine
end
